-- ==== Sys2Proof/Word.lean ====
section
/-! DEFINITION. The word types of the CHIP8 CORE (R9, R10, R18). Every value of this ISA is an unsigned number of
a stated width; nothing is signed and nothing is ever sign-extended. -/

namespace Sys2Proof

/-- u8: a general register, a memory byte, a timer, an 8-bit immediate (R9). -/
abbrev Byte := BitVec 8

/-- u16: an opcode, PC, I, a stack entry (R9). -/
abbrev Word := BitVec 16

/-- A register number, or a key number. It is a 4-bit field, so it cannot be out of range (R18, R47). -/
abbrev Reg := Fin 16

/-- VF, the register that is also the flag output (R19). -/
abbrev regF : Reg := 15

end Sys2Proof
end

