-- ==== Sys2Proof/WellFormed.lean ====
section
/-! DEFINITION. Well-formed instructions: every operand fits its field (R73). The constructors of `Instr` take operands
of exactly the fields' widths, so every term of `Instr` is well formed (`Sys2Proof.Laws.FitsRow`); the check itself is on an
operand as it is written down, a number beside the name of its field. -/

namespace Sys2Proof

/-- The operand fields of R73. -/
inductive Field where
  | x | y | n | nn | nnn
  deriving DecidableEq, Repr

/-- The width of a field in bits (R73). -/
def Field.width : Field → Nat
  | .x => 4
  | .y => 4
  | .n => 4
  | .nn => 8
  | .nnn => 12

/-- An operand as a number in a named field. -/
structure Operand where
  field : Field
  value : Nat
  deriving DecidableEq, Repr

/-- The check: the number fits the field, read as unsigned (R74). -/
def Operand.wf (o : Operand) : Bool := o.value < 2 ^ o.field.width

/-- The operands of the format XYF (R72). -/
def operandsXY (x y : Reg) : List Operand := [⟨.x, x.val⟩, ⟨.y, y.val⟩]

/-- The operands of the format XNN (R72). -/
def operandsXNN (x : Reg) (nn : Byte) : List Operand := [⟨.x, x.val⟩, ⟨.nn, nn.toNat⟩]

/-- The operand of the format NNN (R72). -/
def operandsNNN (nnn : BitVec 12) : List Operand := [⟨.nnn, nnn.toNat⟩]

/-- The operand of the format XF (R72). -/
def operandsX (x : Reg) : List Operand := [⟨.x, x.val⟩]

/-- The operands of an instruction, by its format (R72). -/
def Instr.operands : Instr → List Operand
  | .cls => []
  | .ret => []
  | .jp nnn => operandsNNN nnn
  | .call nnn => operandsNNN nnn
  | .seImm x nn => operandsXNN x nn
  | .sneImm x nn => operandsXNN x nn
  | .seReg x y => operandsXY x y
  | .ldImm x nn => operandsXNN x nn
  | .addImm x nn => operandsXNN x nn
  | .ldReg x y => operandsXY x y
  | .orReg x y => operandsXY x y
  | .andReg x y => operandsXY x y
  | .xorReg x y => operandsXY x y
  | .addReg x y => operandsXY x y
  | .subReg x y => operandsXY x y
  | .shr x y => operandsXY x y
  | .subnReg x y => operandsXY x y
  | .shl x y => operandsXY x y
  | .sneReg x y => operandsXY x y
  | .ldI nnn => operandsNNN nnn
  | .jpV0 nnn => operandsNNN nnn
  | .rnd x nn => operandsXNN x nn
  | .drw x y n => operandsXY x y ++ [⟨.n, n.toNat⟩]
  | .skp x => operandsX x
  | .sknp x => operandsX x
  | .ldVxDT x => operandsX x
  | .ldVxK x => operandsX x
  | .ldDTVx x => operandsX x
  | .ldSTVx x => operandsX x
  | .addI x => operandsX x
  | .ldF x => operandsX x
  | .ldB x => operandsX x
  | .storeRegs x => operandsX x
  | .loadRegs x => operandsX x

/-- An instruction is well formed when each of its operands fits its field. -/
def Instr.wf (i : Instr) : Bool := i.operands.all Operand.wf

end Sys2Proof
end

