-- ==== Sys2Proof/Decode.lean ====
section
/-! DEFINITION. Decoding (R71 to R81, R88) and, after it, encoding, written from the same table (R78).
`decode` classifies by the high nibble and then by the family's key (R75, R76); `opcodeRows` is the table of masks and
matches (R78), as data. Decoding reads nothing but the opcode and cannot fault (R88): an opcode of no row is answered by
name. -/

namespace Sys2Proof

/-- Why bytes decode to no instruction. -/
inductive Rejection where
  /-- The opcode matches no row of R78 (R79). -/
  | unknownOpcode (op : Word)
  /-- Fewer than the two bytes of an instruction are there (R71). -/
  | truncated (bytes : List Byte)
  deriving DecidableEq, Repr

/-- The descriptor the decoder produces: every field of every opcode (R73, R88). -/
structure Descriptor where
  family : BitVec 4
  x : Reg
  y : Reg
  n : BitVec 4
  nn : Byte
  nnn : BitVec 12
  deriving DecidableEq, Repr

/-- Field extraction (R73, R88). -/
def describe (op : Word) : Descriptor where
  family := op.extractLsb' 12 4
  x := (op.extractLsb' 8 4).toFin
  y := (op.extractLsb' 4 4).toFin
  n := op.extractLsb' 0 4
  nn := op.extractLsb' 0 8
  nnn := op.extractLsb' 0 12

/-- Family 0, by opcode[11:0] (R76). -/
def decode0 (op : Word) (d : Descriptor) : Except Rejection Instr :=
  if d.nnn = 0x0E0#12 then .ok .cls
  else if d.nnn = 0x0EE#12 then .ok .ret
  else .error (.unknownOpcode op)

/-- Family 8, by opcode[3:0] (R76). -/
def decode8 (op : Word) (d : Descriptor) : Except Rejection Instr :=
  if d.n = 0x0#4 then .ok (.ldReg d.x d.y)
  else if d.n = 0x1#4 then .ok (.orReg d.x d.y)
  else if d.n = 0x2#4 then .ok (.andReg d.x d.y)
  else if d.n = 0x3#4 then .ok (.xorReg d.x d.y)
  else if d.n = 0x4#4 then .ok (.addReg d.x d.y)
  else if d.n = 0x5#4 then .ok (.subReg d.x d.y)
  else if d.n = 0x6#4 then .ok (.shr d.x d.y)
  else if d.n = 0x7#4 then .ok (.subnReg d.x d.y)
  else if d.n = 0xE#4 then .ok (.shl d.x d.y)
  else .error (.unknownOpcode op)

/-- Family E, by opcode[7:0] (R76). -/
def decodeE (op : Word) (d : Descriptor) : Except Rejection Instr :=
  if d.nn = 0x9E#8 then .ok (.skp d.x)
  else if d.nn = 0xA1#8 then .ok (.sknp d.x)
  else .error (.unknownOpcode op)

/-- Family F, by opcode[7:0] (R76). -/
def decodeF (op : Word) (d : Descriptor) : Except Rejection Instr :=
  if d.nn = 0x07#8 then .ok (.ldVxDT d.x)
  else if d.nn = 0x0A#8 then .ok (.ldVxK d.x)
  else if d.nn = 0x15#8 then .ok (.ldDTVx d.x)
  else if d.nn = 0x18#8 then .ok (.ldSTVx d.x)
  else if d.nn = 0x1E#8 then .ok (.addI d.x)
  else if d.nn = 0x29#8 then .ok (.ldF d.x)
  else if d.nn = 0x33#8 then .ok (.ldB d.x)
  else if d.nn = 0x55#8 then .ok (.storeRegs d.x)
  else if d.nn = 0x65#8 then .ok (.loadRegs d.x)
  else .error (.unknownOpcode op)

/-- The family's dispatch on its descriptor: first the high nibble, then the key (R75, R76, R77). -/
def decodeDescriptor (op : Word) (d : Descriptor) : Except Rejection Instr :=
  if d.family = 0x0#4 then decode0 op d
  else if d.family = 0x1#4 then .ok (.jp d.nnn)
  else if d.family = 0x2#4 then .ok (.call d.nnn)
  else if d.family = 0x3#4 then .ok (.seImm d.x d.nn)
  else if d.family = 0x4#4 then .ok (.sneImm d.x d.nn)
  else if d.family = 0x5#4 then
    if d.n = 0x0#4 then .ok (.seReg d.x d.y) else .error (.unknownOpcode op)
  else if d.family = 0x6#4 then .ok (.ldImm d.x d.nn)
  else if d.family = 0x7#4 then .ok (.addImm d.x d.nn)
  else if d.family = 0x8#4 then decode8 op d
  else if d.family = 0x9#4 then
    if d.n = 0x0#4 then .ok (.sneReg d.x d.y) else .error (.unknownOpcode op)
  else if d.family = 0xA#4 then .ok (.ldI d.nnn)
  else if d.family = 0xB#4 then .ok (.jpV0 d.nnn)
  else if d.family = 0xC#4 then .ok (.rnd d.x d.nn)
  else if d.family = 0xD#4 then .ok (.drw d.x d.y d.n)
  else if d.family = 0xE#4 then decodeE op d
  else decodeF op d

/-- The instruction an opcode is, or why it is none (R88). -/
def decode (op : Word) : Except Rejection Instr := decodeDescriptor op (describe op)

/-- The opcode of two bytes, high byte first (R58, R71): `(hi << 8) | lo`. -/
def wordOfBytes (hi lo : Byte) : Word := hi ++ lo

/-- The high byte of an opcode, which stands at the lower address (R59). -/
def hiByte (w : Word) : Byte := w.extractLsb' 8 8

/-- The low byte of an opcode. -/
def loByte (w : Word) : Byte := w.extractLsb' 0 8

/-- Decoding the bytes in front: the instruction and the bytes after it. Every instruction is two bytes long (R71). -/
def decodeBytes : List Byte → Except Rejection (Instr × List Byte)
  | hi :: lo :: rest =>
    match decode (wordOfBytes hi lo) with
    | .ok i => .ok (i, rest)
    | .error r => .error r
  | short => .error (.truncated short)

/-- The opcode as `spec/opcode_table.json` numbers its bits: bit 0 is the least significant bit of the 16-bit word, and
bits above `nbits` are 0. -/
def tableWord (nbits w : Nat) : Word := BitVec.ofNat 16 (w % 2 ^ nbits)

/-- The instruction the decoder reads from a word of `spec/opcode_table.json`, laid out as the hardware stores it: high
byte first (R59). -/
def decodeTableWord (nbits w : Nat) : Option Instr :=
  match decodeBytes [hiByte (tableWord nbits w), loByte (tableWord nbits w)] with
  | .ok (i, _) => some i
  | .error _ => none

/-! ### Encoding: the formats of R72, each field at its place. -/

/-- The format NNN: a family and a 12-bit address. -/
def encodeNNN (family : Nat) (nnn : BitVec 12) : Word := BitVec.ofNat 16 (family * 0x1000 + nnn.toNat)

/-- The format XNN: a family, a register and an 8-bit immediate. -/
def encodeXNN (family : Nat) (x : Reg) (nn : Byte) : Word :=
  BitVec.ofNat 16 (family * 0x1000 + x.val * 0x100 + nn.toNat)

/-- The formats XYF and XYN: a family, two registers and a low nibble. -/
def encodeXYN (family : Nat) (x y : Reg) (n : BitVec 4) : Word :=
  BitVec.ofNat 16 (family * 0x1000 + x.val * 0x100 + y.val * 0x10 + n.toNat)

/-- The opcode of an instruction (R78). -/
def encode : Instr → Word
  | .cls => 0x00E0#16
  | .ret => 0x00EE#16
  | .jp nnn => encodeNNN 0x1 nnn
  | .call nnn => encodeNNN 0x2 nnn
  | .seImm x nn => encodeXNN 0x3 x nn
  | .sneImm x nn => encodeXNN 0x4 x nn
  | .seReg x y => encodeXYN 0x5 x y 0x0#4
  | .ldImm x nn => encodeXNN 0x6 x nn
  | .addImm x nn => encodeXNN 0x7 x nn
  | .ldReg x y => encodeXYN 0x8 x y 0x0#4
  | .orReg x y => encodeXYN 0x8 x y 0x1#4
  | .andReg x y => encodeXYN 0x8 x y 0x2#4
  | .xorReg x y => encodeXYN 0x8 x y 0x3#4
  | .addReg x y => encodeXYN 0x8 x y 0x4#4
  | .subReg x y => encodeXYN 0x8 x y 0x5#4
  | .shr x y => encodeXYN 0x8 x y 0x6#4
  | .subnReg x y => encodeXYN 0x8 x y 0x7#4
  | .shl x y => encodeXYN 0x8 x y 0xE#4
  | .sneReg x y => encodeXYN 0x9 x y 0x0#4
  | .ldI nnn => encodeNNN 0xA nnn
  | .jpV0 nnn => encodeNNN 0xB nnn
  | .rnd x nn => encodeXNN 0xC x nn
  | .drw x y n => encodeXYN 0xD x y n
  | .skp x => encodeXNN 0xE x 0x9E#8
  | .sknp x => encodeXNN 0xE x 0xA1#8
  | .ldVxDT x => encodeXNN 0xF x 0x07#8
  | .ldVxK x => encodeXNN 0xF x 0x0A#8
  | .ldDTVx x => encodeXNN 0xF x 0x15#8
  | .ldSTVx x => encodeXNN 0xF x 0x18#8
  | .addI x => encodeXNN 0xF x 0x1E#8
  | .ldF x => encodeXNN 0xF x 0x29#8
  | .ldB x => encodeXNN 0xF x 0x33#8
  | .storeRegs x => encodeXNN 0xF x 0x55#8
  | .loadRegs x => encodeXNN 0xF x 0x65#8

/-- The two bytes of an instruction, in address order (R59, R83). -/
def encodeBytes (i : Instr) : List Byte := [hiByte (encode i), loByte (encode i)]

/-! ### The opcode table as data (R78). -/

/-- A row of R78: an opcode is of this row when `(opcode & mask) == bits`. -/
structure OpcodeRow where
  mask : Word
  bits : Word
  deriving DecidableEq, Repr

/-- The row's test (R78). -/
def OpcodeRow.hit (r : OpcodeRow) (op : Word) : Bool := op &&& r.mask == r.bits

/-- Rows 1 to 9 of R78. -/
def opcodeRowsA : List OpcodeRow :=
  [⟨0xFFFF, 0x00E0⟩, ⟨0xFFFF, 0x00EE⟩, ⟨0xF000, 0x1000⟩, ⟨0xF000, 0x2000⟩, ⟨0xF000, 0x3000⟩,
   ⟨0xF000, 0x4000⟩, ⟨0xF00F, 0x5000⟩, ⟨0xF000, 0x6000⟩, ⟨0xF000, 0x7000⟩]

/-- Rows 10 to 19 of R78. -/
def opcodeRowsB : List OpcodeRow :=
  [⟨0xF00F, 0x8000⟩, ⟨0xF00F, 0x8001⟩, ⟨0xF00F, 0x8002⟩, ⟨0xF00F, 0x8003⟩, ⟨0xF00F, 0x8004⟩,
   ⟨0xF00F, 0x8005⟩, ⟨0xF00F, 0x8006⟩, ⟨0xF00F, 0x8007⟩, ⟨0xF00F, 0x800E⟩, ⟨0xF00F, 0x9000⟩]

/-- Rows 20 to 34 of R78. -/
def opcodeRowsC : List OpcodeRow :=
  [⟨0xF000, 0xA000⟩, ⟨0xF000, 0xB000⟩, ⟨0xF000, 0xC000⟩, ⟨0xF000, 0xD000⟩, ⟨0xF0FF, 0xE09E⟩,
   ⟨0xF0FF, 0xE0A1⟩, ⟨0xF0FF, 0xF007⟩, ⟨0xF0FF, 0xF00A⟩, ⟨0xF0FF, 0xF015⟩, ⟨0xF0FF, 0xF018⟩,
   ⟨0xF0FF, 0xF01E⟩, ⟨0xF0FF, 0xF029⟩, ⟨0xF0FF, 0xF033⟩, ⟨0xF0FF, 0xF055⟩, ⟨0xF0FF, 0xF065⟩]

/-- The complete instruction list (R78). -/
def opcodeRows : List OpcodeRow := opcodeRowsA ++ opcodeRowsB ++ opcodeRowsC

/-- The row of an instruction (R78). -/
def Instr.row : Instr → OpcodeRow
  | .cls => ⟨0xFFFF, 0x00E0⟩
  | .ret => ⟨0xFFFF, 0x00EE⟩
  | .jp _ => ⟨0xF000, 0x1000⟩
  | .call _ => ⟨0xF000, 0x2000⟩
  | .seImm _ _ => ⟨0xF000, 0x3000⟩
  | .sneImm _ _ => ⟨0xF000, 0x4000⟩
  | .seReg _ _ => ⟨0xF00F, 0x5000⟩
  | .ldImm _ _ => ⟨0xF000, 0x6000⟩
  | .addImm _ _ => ⟨0xF000, 0x7000⟩
  | .ldReg _ _ => ⟨0xF00F, 0x8000⟩
  | .orReg _ _ => ⟨0xF00F, 0x8001⟩
  | .andReg _ _ => ⟨0xF00F, 0x8002⟩
  | .xorReg _ _ => ⟨0xF00F, 0x8003⟩
  | .addReg _ _ => ⟨0xF00F, 0x8004⟩
  | .subReg _ _ => ⟨0xF00F, 0x8005⟩
  | .shr _ _ => ⟨0xF00F, 0x8006⟩
  | .subnReg _ _ => ⟨0xF00F, 0x8007⟩
  | .shl _ _ => ⟨0xF00F, 0x800E⟩
  | .sneReg _ _ => ⟨0xF00F, 0x9000⟩
  | .ldI _ => ⟨0xF000, 0xA000⟩
  | .jpV0 _ => ⟨0xF000, 0xB000⟩
  | .rnd _ _ => ⟨0xF000, 0xC000⟩
  | .drw _ _ _ => ⟨0xF000, 0xD000⟩
  | .skp _ => ⟨0xF0FF, 0xE09E⟩
  | .sknp _ => ⟨0xF0FF, 0xE0A1⟩
  | .ldVxDT _ => ⟨0xF0FF, 0xF007⟩
  | .ldVxK _ => ⟨0xF0FF, 0xF00A⟩
  | .ldDTVx _ => ⟨0xF0FF, 0xF015⟩
  | .ldSTVx _ => ⟨0xF0FF, 0xF018⟩
  | .addI _ => ⟨0xF0FF, 0xF01E⟩
  | .ldF _ => ⟨0xF0FF, 0xF029⟩
  | .ldB _ => ⟨0xF0FF, 0xF033⟩
  | .storeRegs _ => ⟨0xF0FF, 0xF055⟩
  | .loadRegs _ => ⟨0xF0FF, 0xF065⟩

end Sys2Proof
end

