-- ==== Sys2Proof/Config.lean ====
section
/-! DEFINITION. The parameters of the hardware (R7) and the one value the spec leaves free (R47, D21).
The FONT table, also a parameter, stands in `Sys2Proof/Machine/Font.lean`. OP_LATENCY (D1) is not modelled: the
model is untimed (R177). -/

namespace Sys2Proof.Config

/-- MEM_SIZE (R7, R53): an address is valid if and only if it is below this. -/
abbrev memSize : Nat := 0x1000

/-- PROG_BASE (R7, R55): the load address and the PC after reset. It is also the lowest address an instruction may
store to (R57). -/
abbrev progBase : Nat := 0x200

/-- MAX_PROG_LEN (R7, R163): 3584 = 4096 - 512. -/
abbrev maxProgLen : Nat := 3584

/-- FONT_BASE (R7, R34, D22). -/
abbrev fontBase : Nat := 0

/-- FONT_SIZE in bytes (R7): 16 glyphs of 5 bytes. -/
abbrev fontSize : Nat := 80

/-- The RND argument of a STEP to which the host has pinned no value (R47, R97, D21). It has no body: any of the 256
values may appear, independently of earlier ones, so a claim about Cxnn holds for every random byte.
The argument is the counter `rndCount` of the model's State. Safe. DESIGN CHOICE for the counter: log entry 3. -/
opaque rnd : Nat → Byte

end Sys2Proof.Config
end

