-- ==== Sys2Proof/Machine/Font.lean ====
section
/-! DEFINITION. FONT (R34, R35) and the power-on contents of memory (R42, R159). FONT is a parameter of the hardware, and every
definition here takes it as an argument. Its bytes are in no document: `Font.standard` is the default table of R35, PRESUMED,
unsafe (log entry 2). -/

namespace Sys2Proof.Machine

/-- FONT: 16 glyphs of 5 bytes, one byte a row (R34, R35). -/
abbrev Font := Vector Byte Config.fontSize

/-- The glyphs of the digits 0 to 7 in the default table (R35). -/
def fontLow : Vector Byte 40 :=
  #v[0xF0, 0x90, 0x90, 0x90, 0xF0,
    0x20, 0x60, 0x20, 0x20, 0x70,
    0xF0, 0x10, 0xF0, 0x80, 0xF0,
    0xF0, 0x10, 0xF0, 0x10, 0xF0,
    0x90, 0x90, 0xF0, 0x10, 0x10,
    0xF0, 0x80, 0xF0, 0x10, 0xF0,
    0xF0, 0x80, 0xF0, 0x90, 0xF0,
    0xF0, 0x10, 0x20, 0x40, 0x40]

/-- The glyphs of the digits 8 to F in the default table (R35). -/
def fontHigh : Vector Byte 40 :=
  #v[0xF0, 0x90, 0xF0, 0x90, 0xF0,
    0xF0, 0x90, 0xF0, 0x10, 0xF0,
    0xF0, 0x90, 0xF0, 0x90, 0x90,
    0xE0, 0x90, 0xE0, 0x90, 0xE0,
    0xF0, 0x80, 0x80, 0x80, 0xF0,
    0xE0, 0x90, 0x90, 0x90, 0xE0,
    0xF0, 0x80, 0xF0, 0x80, 0xF0,
    0xF0, 0x80, 0xF0, 0x80, 0x80]

/-- The default value of FONT (R35). -/
def Font.standard : Font := fontLow ++ fontHigh

/-- What an address reads as that is not listed in memory: the power-on contents, FONT at FONT_BASE and 0x00 elsewhere
(R42, R159, D23). -/
def initialByte (font : Font) (a : Nat) : Byte :=
  if h : Config.fontBase ≤ a ∧ a - Config.fontBase < Config.fontSize then font[a - Config.fontBase]'h.2 else 0

end Sys2Proof.Machine
end

