-- ==== Sys2Proof/Machine/State.lean ====
section
/-! DEFINITION. The state of the CHIP8 CORE (R17: "exactly the following. Nothing else is state"), the reasons a step can
end other than in a next state, and the state after power-on (R42, R159). The last four fields of State are the model's own
(DESIGN CHOICE, log entries 2, 3 and 4). -/

namespace Sys2Proof.Machine

/-- MEM, as the bytes that differ from the power-on contents (`initialByte`), by rising address. -/
abbrev Memory := List Host.Cell

/-- DISP: 32 rows of 64 pixels; bit px of row py is DISP[px][py] (R30, R31). -/
abbrev Display := Vector (BitVec 64) 32

/-- The display with every pixel 0. -/
abbrev Display.blank : Display := Vector.replicate 32 0#64

/-- The five operations with which the host drives the core (R45). -/
inductive HostOp where
  /-- RESET (R160). -/
  | reset
  /-- LOAD of a byte sequence (R162, R163). -/
  | load (bytes : List Byte)
  /-- SET_KEY: the key's number, and whether it is now pressed (R165). -/
  | setKey (k : Reg) (pressed : Bool)
  /-- STEP with its random byte (R85). -/
  | step (rnd : Byte)
  /-- TICK (R151). -/
  | tick
  deriving DecidableEq, Repr

/-- A fatal fault as it is raised, with the address it records (R13, R136, R137, R138). It is an intermediate result of
one STEP: the STEP then enters the halt (R141), which is a next state. -/
inductive FatalFault where
  /-- A memory address or a key index outside its bound (R136). -/
  | outOfRange (addr : Nat)
  /-- 2nnn with a full stack (R137). -/
  | stackOverflow (addr : Nat)
  /-- 00EE with an empty stack (R138). -/
  | stackUnderflow (addr : Nat)
  deriving DecidableEq, Repr

/-- The status codes of operation results (R135). Code 7 is never produced. -/
inductive Status where
  | ok
  | awaitingInput
  | unknownOpcode
  | outOfRange
  | stackOverflow
  | stackUnderflow
  | loadTooLarge
  deriving DecidableEq, Repr

structure State where
  /-- V0 to VF (R18). -/
  v : Vector Byte 16
  /-- The index register (R21). -/
  i : Word
  /-- The program counter: the address of the instruction while it executes (R23, R24). -/
  pc : Word
  /-- The number of stack entries in use, 0 to 16 (R25). -/
  sp : Fin 17
  /-- STACK[0..15] (R25). -/
  stack : Vector Word 16
  /-- The delay timer (R28). -/
  dt : Byte
  /-- The sound timer (R29). -/
  st : Byte
  /-- MEM (R33). -/
  mem : Memory
  /-- DISP (R30). -/
  disp : Display
  /-- KEY[k]: key k is pressed (R32). -/
  key : Vector Bool 16
  /-- A fatal fault has halted the session (R36). -/
  halted : Bool
  /-- The status code of that fault (R37). -/
  faultCode : BitVec 3
  /-- The address that fault recorded (R38). -/
  faultAddr : Word
  /-- The opcode of that fault (R39). -/
  faultOp : Word
  /-- Whether that fault came after a successful fetch (R39). -/
  faultOpValid : Bool
  /-- The model's own: the RND argument of the STEP in progress, or none where the host pinned no value (R47). -/
  rnd : Option Byte
  /-- The model's own: the number of RND bytes used so far. -/
  rndCount : Nat
  /-- The model's own: the operations the host has issued and the core has not performed yet, oldest first (R45, R46). -/
  hostOps : List HostOp
  /-- The model's own: the parameter FONT of the hardware (R35), which nothing writes. -/
  font : Font
  deriving DecidableEq, Repr

/-- The reasons a step stops the machine. There are none, so nobody raises one and none is unsafe: a fatal fault is no stop,
its entry is a next state in which HALTED = 1 (R141), in which every operation is still accepted (R49). -/
inductive Fault where
  deriving DecidableEq, Repr

/-- The reasons a step has no meaning. -/
inductive Refusal where
  /-- Raised by exec for an instruction whose meaning is not written yet, by the table's mnemonic; no instruction of this
  model is left so. Safe: no claim about such an instruction could be proved. -/
  | notModelled (mnemonic : String)
  deriving DecidableEq, Repr

/-- The state right after power-on of a core with a given FONT (R35, R42, R159): PC at the reset vector, all else 0, memory at
its power-on contents, which is memory with nothing listed. -/
def State.powerOn (font : Font) : State where
  v := Vector.replicate 16 0
  i := 0
  pc := 0x200
  sp := 0
  stack := Vector.replicate 16 0
  dt := 0
  st := 0
  mem := []
  disp := Display.blank
  key := Vector.replicate 16 false
  halted := false
  faultCode := 0
  faultAddr := 0
  faultOp := 0
  faultOpValid := false
  rnd := none
  rndCount := 0
  hostOps := []
  font := font

/-- The state right after power-on of a core with the default FONT (R35, R42, R159). -/
def State.reset : State := State.powerOn Font.standard

end Sys2Proof.Machine
end

