-- ==== Sys2Proof/Machine/Ops.lean ====
section
/-! DEFINITION. The shared operations over memory, registers and the stack; raising a fatal fault, once, for every
instruction (R13, R141); the fetch (R58); and placing an instruction where the next step fetches it. -/

namespace Sys2Proof.Machine

/-! ### Memory as data. -/

/-- The byte MEM[a] (R33), of a core with a given FONT. -/
def Memory.read (font : Font) : Memory → Nat → Byte
  | [], a => initialByte font a
  | c :: m, a => if c.1 = a then c.2 else Memory.read font m a

/-- The canonical form: addresses strictly rising and below MEM_SIZE, and no entry equal to the power-on byte. -/
abbrev Memory.wf (font : Font) (m : Memory) : Prop :=
  m.Pairwise (fun c d => c.1 < d.1) ∧ ∀ c ∈ m, c.1 < Config.memSize ∧ c.2 ≠ initialByte font c.1

/-- Memory without an entry for an address: that address then reads as at power-on. -/
def Memory.erase (m : Memory) (a : Nat) : Memory := m.filter (fun c => c.1 != a)

/-- An entry put in its place by rising address, into a memory without an entry for it. -/
def Memory.insert : Memory → Nat → Byte → Memory
  | [], a, b => [(a, b)]
  | c :: m, a, b => if a < c.1 then (a, b) :: c :: m else c :: Memory.insert m a b

/-- `MEM[a] <- b`, keeping the canonical form. -/
def Memory.write (font : Font) (m : Memory) (a : Nat) (b : Byte) : Memory :=
  if b = initialByte font a then Memory.erase m a else Memory.insert (Memory.erase m a) a b

/-- Writing bytes at ascending addresses directly, as RESET and LOAD do (R57, R160, R162). -/
def Memory.writeAll (font : Font) : Memory → Nat → List Byte → Memory
  | m, _, [] => m
  | m, a, b :: bs => Memory.writeAll font (Memory.write font m a b) (a + 1) bs

/-! ### Memory as the instructions access it. -/

/-- MemRead(addr, 1) (R56). -/
def memRead (font : Font) (m : Memory) (a : Nat) : Except FatalFault Byte :=
  if a ≥ Config.memSize then .error (.outOfRange a) else .ok (Memory.read font m a)

/-- MemWrite(addr, 1, v) (R57). -/
def memWrite (font : Font) (m : Memory) (a : Nat) (b : Byte) : Except FatalFault Memory :=
  if a ≥ Config.memSize then .error (.outOfRange a)
  else if a < Config.progBase then .error (.outOfRange a)
  else .ok (Memory.write font m a b)

/-- Reads at a, a + 1, ..., in that order, as many as asked (R62). The sums are exact (R61). -/
def readBytes (font : Font) (m : Memory) : Nat → Nat → Except FatalFault (List Byte)
  | _, 0 => .ok []
  | a, n + 1 =>
    match memRead font m a with
    | .error f => .error f
    | .ok b =>
      match readBytes font m (a + 1) n with
      | .error f => .error f
      | .ok bs => .ok (b :: bs)

/-- Writes at a, a + 1, ..., in that order (R62). -/
def writeBytes (font : Font) : Memory → Nat → List Byte → Except FatalFault Memory
  | m, _, [] => .ok m
  | m, a, b :: bs =>
    match memWrite font m a b with
    | .error f => .error f
    | .ok m' => writeBytes font m' (a + 1) bs

/-- Fetch(addr): two consecutive bytes, big-endian (R58). -/
def fetch (font : Font) (m : Memory) (a : Nat) : Except FatalFault Word :=
  match memRead font m a with
  | .error f => .error f
  | .ok hi =>
    match memRead font m (a + 1) with
    | .error f => .error f
    | .ok lo => .ok (wordOfBytes hi lo)

/-- MEM[a] in a state. -/
abbrev State.byteAt (s : State) (a : Nat) : Byte := Memory.read s.font s.mem a

/-! ### Registers. -/

/-- V[x] (R18): no register is hard-wired. -/
def State.getV (s : State) (x : Reg) : Byte := s.v[x.val]

/-- `V[x] <- b` (R18). -/
def State.setV (s : State) (x : Reg) (b : Byte) : State := { s with v := s.v.set x.val b }

/-- `I <- w` (R21). -/
def State.setI (s : State) (w : Word) : State := { s with i := w }

/-- `PC <- w` (R23). -/
def State.setPc (s : State) (w : Word) : State := { s with pc := w }

/-- `DT <- b` (R28). -/
def State.setDt (s : State) (b : Byte) : State := { s with dt := b }

/-- `ST <- b` (R29). -/
def State.setSt (s : State) (b : Byte) : State := { s with st := b }

/-- MEM replaced. -/
def State.setMem (s : State) (m : Memory) : State := { s with mem := m }

/-- DISP replaced. -/
def State.setDisp (s : State) (d : Display) : State := { s with disp := d }

/-- V[0], V[1], ... replaced by a list, from register k on (R126). -/
def loadV (v : Vector Byte 16) : Nat → List Byte → Vector Byte 16
  | _, [] => v
  | k, b :: bs => loadV (v.setIfInBounds k b) (k + 1) bs

/-- V[0], ..., V[x] (R125). -/
def State.firstV (s : State) (x : Reg) : List Byte := s.v.toList.take (x.val + 1)

/-- The sequential advance of R90. -/
def State.advance (s : State) : State := s.setPc (s.pc + 2)

/-- The skip advance of R91. -/
def State.skipIf (s : State) (cond : Bool) : State := if cond then s.setPc (s.pc + 4) else s.setPc (s.pc + 2)

/-! ### The stack. -/

/-- Push(v) (R26). -/
def State.push (s : State) (w : Word) : Except FatalFault State :=
  if h : s.sp.val < 16 then
    .ok { s with stack := s.stack.set s.sp.val w h, sp := ⟨s.sp.val + 1, by omega⟩ }
  else .error (.stackOverflow s.pc.toNat)

/-- Pop() (R27): the entry that was on top, and the state after. The entry keeps its value. -/
def State.pop (s : State) : Except FatalFault (Word × State) :=
  if h : 0 < s.sp.val then
    .ok (s.stack[s.sp.val - 1]'(by omega), { s with sp := ⟨s.sp.val - 1, by omega⟩ })
  else .error (.stackUnderflow s.pc.toNat)

/-! ### Fatal faults. -/

/-- The numbers of the status codes (R135). -/
def Status.code : Status → BitVec 3
  | .ok => 0
  | .awaitingInput => 1
  | .unknownOpcode => 2
  | .outOfRange => 3
  | .stackOverflow => 4
  | .stackUnderflow => 5
  | .loadTooLarge => 6

/-- The status of a fatal fault (R135). -/
def FatalFault.status : FatalFault → Status
  | .outOfRange _ => .outOfRange
  | .stackOverflow _ => .stackOverflow
  | .stackUnderflow _ => .stackUnderflow

/-- The address a fatal fault records (R38). -/
def FatalFault.addr : FatalFault → Nat
  | .outOfRange a => a
  | .stackOverflow a => a
  | .stackUnderflow a => a

/-- Fatal fault entry (R141), on the state before the STEP: the working copy is discarded, and only the halt and fault state
change. The opcode is there when the fetch succeeded (R39). -/
def State.enterFault (s : State) (f : FatalFault) (op : Option Word) : State :=
  { s with
    halted := true
    faultCode := f.status.code
    faultAddr := BitVec.ofNat 16 f.addr
    faultOp := op.getD 0
    faultOpValid := op.isSome }

/-- The end of an instruction (R13): its working copy becomes the state, or, where it raised, the working copy is discarded
and the fault is entered from the state before it, with the instruction's opcode. -/
def settle (i : Instr) (s : State) : Except FatalFault State → Host.Outcome State Fault Refusal
  | .ok t => .next t
  | .error f => .next (s.enterFault f (some (encode i)))

/-! ### Placing an instruction. -/

/-- A PC from which a fetch succeeds: the state's own where one does, else the reset vector (R55, R58). -/
def State.fetchablePc (s : State) : Word := if s.pc.toNat ≤ 0xFFE then s.pc else 0x200

/-- The state with an opcode at the PC, not halted, and with no operation of the host before the next STEP: the very next
step then fetches and runs that opcode. DESIGN CHOICE, safe: log entry 6. -/
def State.placeOpcode (s : State) (op : Word) : State :=
  { s with
    mem := Memory.writeAll s.font s.mem s.fetchablePc.toNat [hiByte op, loByte op]
    pc := s.fetchablePc
    halted := false
    faultCode := 0
    faultAddr := 0
    faultOp := 0
    faultOpValid := false
    hostOps := [] }

end Sys2Proof.Machine
end

