-- ==== Sys2Proof/Machine/Operands.lean ====
section
/-! DEFINITION. The operand forms of the instructions: the address I + k, the glyph address, the key an operand names, the
random byte, the decimal digits, and the pixels of the display. -/

namespace Sys2Proof.Machine

/-- The address of the access with offset 0 through I; the others follow it, one byte apart (R62). The sums are exact
(R61). -/
def State.indexAddr (s : State) : Nat := s.i.toNat

/-- A 12-bit address, zero-extended to a PC or I (R74). -/
def addr16 (nnn : BitVec 12) : Word := nnn.setWidth 16

/-- A register value, zero-extended to 16 bits (R10). -/
def zext16 (b : Byte) : Word := b.setWidth 16

/-- The address of the glyph of the digit in the low nibble (R34, R123). -/
def glyphAddr (b : Byte) : Word := BitVec.ofNat 16 (Config.fontBase + 5 * (b &&& 0x0F#8).toNat)

/-- The hundreds, the tens and the units of a byte (R124). -/
def bcdDigits (b : Byte) : List Byte :=
  [BitVec.ofNat 8 (b.toNat / 100), BitVec.ofNat 8 (b.toNat / 10 % 10), BitVec.ofNat 8 (b.toNat % 10)]

/-- Whether the key of an operand is pressed; an index above 0xF is out of range (R106, R107). -/
def State.keyLevel (s : State) (b : Byte) : Except FatalFault Bool :=
  if h : b.toNat < 16 then .ok s.key[b.toNat] else .error (.outOfRange b.toNat)

/-- The smallest index of a pressed key (R131). -/
def State.lowestKey (s : State) : Option Reg := (List.finRange 16).find? (fun k => s.key[k.val])

/-- The RND argument of this STEP: the byte the host pinned, or a free one (R47, R97). -/
def State.rndByte (s : State) : Byte := s.rnd.getD (Config.rnd s.rndCount)

/-- The byte is used, and the next free one is another. -/
def State.countRnd (s : State) : State := { s with rndCount := s.rndCount + 1 }

/-- DISP[px][py] (R31). -/
def Display.pixel (d : Display) (px : Fin 64) (py : Fin 32) : Bool := (d[py.val]).getLsbD px.val

/-- Inverting a pixel, and what it was: the document's togglePixel(x,y) -> wasSet (R129). -/
def togglePixel (d : Display) (px : Fin 64) (py : Fin 32) : Display × Bool :=
  (d.set py.val (d[py.val] ^^^ (1#64 <<< px.val)), Display.pixel d px py)

/-- One column of a sprite row: where the bit is set, the pixel is inverted, and a set pixel is a collision (R128). Bit 7 is
the leftmost column (D16), and the coordinate wraps modulo 64 (D15). -/
def drawBit (x0 : Nat) (py : Fin 32) (row : Byte) (acc : Display × Bool) (col : Nat) : Display × Bool :=
  if row.getLsbD (7 - col) then
    ((togglePixel acc.1 (Fin.ofNat 64 (x0 + col)) py).1,
      acc.2 || (togglePixel acc.1 (Fin.ofNat 64 (x0 + col)) py).2)
  else acc

/-- The eight columns of a sprite row, from column x0 (R128). -/
def drawRow (x0 : Nat) (py : Fin 32) (row : Byte) (acc : Display × Bool) : Display × Bool :=
  (List.range 8).foldl (drawBit x0 py row) acc

/-- The rows of a sprite, from row number r on; the coordinate wraps modulo 32 (R128). -/
def drawRows (x0 y0 : Nat) : Nat → List Byte → Display × Bool → Display × Bool
  | _, [], acc => acc
  | r, row :: rows, acc => drawRows x0 y0 (r + 1) rows (drawRow x0 (Fin.ofNat 32 (y0 + r)) row acc)

/-- A sprite drawn: the display after, and whether there was a collision (R128). -/
def drawSprite (d : Display) (x0 y0 : Nat) (rows : List Byte) : Display × Bool := drawRows x0 y0 0 rows (d, false)

end Sys2Proof.Machine
end

