-- ==== Sys2Proof/Machine/Flags.lean ====
section
/-! DEFINITION. The flag computations (R41): VF is the only flag, and it is 1 or 0. -/

namespace Sys2Proof.Machine

/-- A flag's value as VF holds it. -/
def flagByte (b : Bool) : Byte := if b then 1 else 0

/-- The carry of 8xy4: the exact sum is above 255 (R115). -/
def carryFlag (a b : Byte) : Byte := flagByte (decide (a.toNat + b.toNat > 255))

/-- The no-borrow flag of `a - b`: 1 when a >= b (R116, R118). -/
def noBorrowFlag (a b : Byte) : Byte := flagByte (decide (a.toNat ≥ b.toNat))

/-- The bit that SHR shifts out: bit 0 before the shift (R117). -/
def lowBitFlag (a : Byte) : Byte := flagByte (a.getLsbD 0)

/-- The bit that SHL shifts out: bit 7 before the shift (R119). -/
def highBitFlag (a : Byte) : Byte := flagByte (a.getLsbD 7)

/-- The result to V[x], then the flag to VF: with x = F, VF ends as the flag (R108, D9). -/
def State.setResultFlag (s : State) (x : Reg) (result flag : Byte) : State := (s.setV x result).setV regF flag

end Sys2Proof.Machine
end

