-- ==== Sys2Proof/Machine/Draw.lean ====
section
/-! DEFINITION. The display instructions (45_display.md). -/

namespace Sys2Proof.Machine

/-- CLS (R127). -/
def execCls (s : State) : Host.Outcome State Fault Refusal :=
  .next (s.setDisp Display.blank).advance

/-- The effect of a draw once its rows are read (R128): the pixels, then VF. -/
def State.draw (s : State) (x y : Reg) (rows : List Byte) : State :=
  ((s.setDisp (drawSprite s.disp (s.getV x).toNat (s.getV y).toNat rows).1).setV regF
    (flagByte (drawSprite s.disp (s.getV x).toNat (s.getV y).toNat rows).2)).advance

/-- DRW Vx, Vy, n (R128): the rows are read first. -/
def execDrw (x y : Reg) (n : BitVec 4) (s : State) : Host.Outcome State Fault Refusal :=
  settle (.drw x y n) s ((readBytes s.font s.mem s.indexAddr n.toNat).map (fun rows => s.draw x y rows))

end Sys2Proof.Machine
end

