-- ==== Sys2Proof/Machine/Flow.lean ====
section
/-! DEFINITION. Control transfer (41_flow.md). These instructions assign PC and do not advance it afterwards (R92). -/

namespace Sys2Proof.Machine

/-- RET (R98): the saved address is that of the CALL, so PC becomes it plus 2 (D6). -/
def execRet (s : State) : Host.Outcome State Fault Refusal :=
  settle .ret s (s.pop.map (fun p => p.2.setPc (p.1 + 2)))

/-- JP nnn (R99). -/
def execJp (nnn : BitVec 12) (s : State) : Host.Outcome State Fault Refusal :=
  .next (s.setPc (addr16 nnn))

/-- CALL nnn (R100): the address pushed is the CALL's own. -/
def execCall (nnn : BitVec 12) (s : State) : Host.Outcome State Fault Refusal :=
  settle (.call nnn) s ((s.push s.pc).map (fun t => t.setPc (addr16 nnn)))

/-- JP V0, nnn (R101): the exact sum, which 16 bits always hold. -/
def execJpV0 (nnn : BitVec 12) (s : State) : Host.Outcome State Fault Refusal :=
  .next (s.setPc (addr16 nnn + zext16 (s.getV 0)))

end Sys2Proof.Machine
end

