-- ==== Sys2Proof/Machine/Index.lean ====
section
/-! DEFINITION. The index register and memory transfers (44_index_memory.md). I is not modified by the transfers (D12), and
a transfer that raises has no effect but the fault's (D14). -/

namespace Sys2Proof.Machine

/-- LD I, nnn (R121). -/
def execLdI (nnn : BitVec 12) (s : State) : Host.Outcome State Fault Refusal :=
  .next (s.setI (addr16 nnn)).advance

/-- ADD I, Vx (R122): modulo 2^16, no flag. -/
def execAddI (x : Reg) (s : State) : Host.Outcome State Fault Refusal :=
  .next (s.setI (s.i + zext16 (s.getV x))).advance

/-- LD F, Vx (R123). -/
def execLdF (x : Reg) (s : State) : Host.Outcome State Fault Refusal :=
  .next (s.setI (glyphAddr (s.getV x))).advance

/-- LD B, Vx (R124): the BCD converter. -/
def execLdB (x : Reg) (s : State) : Host.Outcome State Fault Refusal :=
  settle (.ldB x) s ((writeBytes s.font s.mem s.indexAddr (bcdDigits (s.getV x))).map (fun m => (s.setMem m).advance))

/-- LD [I], Vx (R125). -/
def execStoreRegs (x : Reg) (s : State) : Host.Outcome State Fault Refusal :=
  settle (.storeRegs x) s ((writeBytes s.font s.mem s.indexAddr (s.firstV x)).map (fun m => (s.setMem m).advance))

/-- LD Vx, [I] (R126): every byte is read before the first register is written. -/
def execLoadRegs (x : Reg) (s : State) : Host.Outcome State Fault Refusal :=
  settle (.loadRegs x) s ((readBytes s.font s.mem s.indexAddr (x.val + 1)).map
    (fun bs => ({ s with v := loadV s.v 0 bs } : State).advance))

end Sys2Proof.Machine
end

