-- ==== Sys2Proof/Machine/Skip.lean ====
section
/-! DEFINITION. Conditional skips (42_skip.md). -/

namespace Sys2Proof.Machine

/-- SE Vx, nn (R102). -/
def execSeImm (x : Reg) (nn : Byte) (s : State) : Host.Outcome State Fault Refusal :=
  .next (s.skipIf (s.getV x == nn))

/-- SNE Vx, nn (R103). -/
def execSneImm (x : Reg) (nn : Byte) (s : State) : Host.Outcome State Fault Refusal :=
  .next (s.skipIf (s.getV x != nn))

/-- SE Vx, Vy (R104). -/
def execSeReg (x y : Reg) (s : State) : Host.Outcome State Fault Refusal :=
  .next (s.skipIf (s.getV x == s.getV y))

/-- SNE Vx, Vy (R105). -/
def execSneReg (x y : Reg) (s : State) : Host.Outcome State Fault Refusal :=
  .next (s.skipIf (s.getV x != s.getV y))

/-- SKP Vx (R106). -/
def execSkp (x : Reg) (s : State) : Host.Outcome State Fault Refusal :=
  settle (.skp x) s ((s.keyLevel (s.getV x)).map (fun down => s.skipIf down))

/-- SKNP Vx (R107). -/
def execSknp (x : Reg) (s : State) : Host.Outcome State Fault Refusal :=
  settle (.sknp x) s ((s.keyLevel (s.getV x)).map (fun down => s.skipIf (!down)))

end Sys2Proof.Machine
end

