-- ==== Sys2Proof/Machine/HostOps.lean ====
section
/-! DEFINITION. The host's operations RESET, LOAD, SET_KEY and TICK (70_reset_and_hazards.md, R151), their results
(R51, R52), the order of several in one cycle (R46), and the continuous outputs (R48). -/

namespace Sys2Proof.Machine

/-- RESET (R160). MEM[0x050..0xFFF] and KEY are unchanged. -/
def opReset (s : State) : State :=
  { s with
    pc := BitVec.ofNat 16 Config.progBase
    i := 0
    sp := 0
    stack := Vector.replicate 16 0
    v := Vector.replicate 16 0
    dt := 0
    st := 0
    disp := Display.blank
    mem := Memory.writeAll s.font s.mem Config.fontBase s.font.toList
    halted := false
    faultCode := 0
    faultAddr := 0
    faultOp := 0
    faultOpValid := false }

/-- The result of LOAD (R52, R162, R163). -/
def loadStatus (bytes : List Byte) : Status := if bytes.length > Config.maxProgLen then .loadTooLarge else .ok

/-- LOAD (R162, R163, R164): a program that does not fit changes no state. -/
def opLoad (bytes : List Byte) (s : State) : State :=
  if bytes.length > Config.maxProgLen then s
  else { s with mem := Memory.writeAll s.font s.mem Config.progBase bytes, pc := BitVec.ofNat 16 Config.progBase }

/-- SET_KEY (R165). -/
def opSetKey (k : Reg) (pressed : Bool) (s : State) : State := { s with key := s.key.set k.val pressed }

/-- A timer's decrement toward zero (R28, R29). -/
def countDown (b : Byte) : Byte := if b = 0 then 0 else b - 1

/-- TICK, the timer decrement engine (R151). While halted it does nothing (R143). -/
def opTick (s : State) : State := if s.halted then s else { s with dt := countDown s.dt, st := countDown s.st }

/-- The result of TICK: tone_end (R51, R151, R153). -/
def tickToneEnd (s : State) : Bool := !s.halted && s.st == 1

/-- What the host presents in one clock cycle (R46). R46, R146 and D2 give only the order of several operations, and do not say
whether one cycle can present the same operation twice: that it holds at most one of each, and at most one SET_KEY a key, is the
model's choice. DESIGN CHOICE, safe: log entry 4. -/
structure Presented where
  reset : Bool
  load : Option (List Byte)
  keys : Vector (Option Bool) 16
  step : Option Byte
  tick : Bool
  deriving DecidableEq, Repr

/-- The order in which the core performs them (R46, R146): RESET, LOAD, SET_KEY in index order, STEP, TICK. -/
def presentedOps (p : Presented) : List HostOp :=
  (if p.reset then [.reset] else []) ++
  p.load.toList.map .load ++
  (List.finRange 16).filterMap (fun k => (p.keys[k.val]).map (HostOp.setKey k)) ++
  p.step.toList.map .step ++
  (if p.tick then [.tick] else [])

/-- sound_active (R48, R154). -/
def soundActive (s : State) : Bool := s.st != 0

/-- DISPLAY (R31, R48): bit py*64 + px of the vector is DISP[px][py]. -/
def displaySnapshot (s : State) : BitVec 2048 :=
  (List.finRange 32).foldr
    (fun py acc => acc ||| BitVec.shiftLeft (BitVec.setWidth 2048 s.disp[py.val]) (py.val * 64)) 0#2048

end Sys2Proof.Machine
end

