-- ==== Sys2Proof/Machine/Cycle.lean ====
section
/-! DEFINITION. The instruction cycle: the STEP operation (R85) and its result (R50), and the performance of the host's
operations one at a time (R45, R46). -/

namespace Sys2Proof.Machine

/-- An unknown opcode: nothing changes but PC (R94). -/
def unknownOpcode (s : State) : State := s.advance

/-- STEP (R85), with its RND in the field `rnd`: while halted it changes nothing (R86); else it fetches, decodes and
executes. -/
def stepOp (s : State) : Host.Outcome State Fault Refusal :=
  if s.halted then .next s
  else
    match fetch s.font s.mem s.pc.toNat with
    | .error f => .next (s.enterFault f none)
    | .ok op =>
      match decode op with
      | .error _ => .next (unknownOpcode s)
      | .ok i => exec i s

/-- The RND argument of a STEP put in place; none leaves the byte free (R47). -/
def State.withRnd (s : State) (r : Option Byte) : State := { s with rnd := r }

/-- The operations that are left. -/
def State.withHostOps (s : State) (ops : List HostOp) : State := { s with hostOps := ops }

/-- One operation of the host (R45). -/
def perform (op : HostOp) (s : State) : Host.Outcome State Fault Refusal :=
  match op with
  | .reset => .next (opReset s)
  | .load bytes => .next (opLoad bytes s)
  | .setKey k pressed => .next (opSetKey k pressed s)
  | .step rnd => stepOp (s.withRnd (some rnd))
  | .tick => .next (opTick s)

/-- The next operation: the oldest the host has issued (R46), or, where it has issued none, a STEP with a free RND (DESIGN CHOICE,
unsafe for claims about runs with an empty list: log entry 4). -/
def nextOp (s : State) : Host.Outcome State Fault Refusal :=
  match s.hostOps with
  | [] => stepOp (s.withRnd none)
  | op :: rest => perform op (s.withHostOps rest)

/-- The STEP result (R50). -/
structure StepResult where
  status : BitVec 3
  opcode : Word
  opcodeValid : Bool
  pc : Word
  displayChanged : Bool
  toneEnd : Bool
  faultAddr : Word
  deriving DecidableEq, Repr

/-- The status of an instruction that raised nothing (R89): AWAITING_INPUT for Fx0A with no key, else OK. -/
def completedStatus (i : Instr) (s : State) : Status :=
  match i with
  | .ldVxK _ => if s.lowestKey = none then .awaitingInput else .ok
  | _ => .ok

/-- The status of a STEP from s to t that fetched an opcode (R50, R85, R94, R141). -/
def fetchedStatus (op : Word) (s t : State) : BitVec 3 :=
  if t.halted then t.faultCode
  else
    match decode op with
    | .error _ => Status.unknownOpcode.code
    | .ok i => (completedStatus i s).code

/-- The result of the STEP that takes s to t: of a halted core (R86), of a fetch that faulted (R141, D46), or of a fetched
opcode (R85, R95, R96). -/
def stepResult (s t : State) : StepResult :=
  if s.halted then ⟨s.faultCode, 0, false, s.pc, false, false, s.faultAddr⟩
  else
    match fetch s.font s.mem s.pc.toNat with
    | .error _ => ⟨t.faultCode, 0, false, s.pc, false, false, t.faultAddr⟩
    | .ok op =>
      ⟨fetchedStatus op s t, op, true, s.pc, t.disp != s.disp, s.st != 0 && t.st == 0, t.faultAddr⟩

end Sys2Proof.Machine
end

