-- ==== Sys2Proof/Machine/Step.lean ====
section
/-! DEFINITION. The machine's step, and placing an instruction for the next one. -/

namespace Sys2Proof.Machine

/-- One step of the machine: the next operation (R45, R46). -/
def step (s : State) : Host.Outcome State Fault Refusal := nextOp s

/-- The state with the instruction of a table word stored where the next step fetches it (DESIGN CHOICE, log entry 6). -/
def State.withFetchWord (s : State) (nbits w : Nat) : State := s.placeOpcode (tableWord nbits w)

end Sys2Proof.Machine
end

