-- ==== Sys2Proof/Safety.lean ====
section
/-! DEFINITION. What counts as a safe run, and the invariant that rules out the states no run reaches. -/

namespace Sys2Proof.Machine

/-- A state is safe when no fatal fault has halted the session (R36). -/
def State.Safe (s : State) : Prop := s.halted = false

/-- A run of n operations is safe when it ends in a state that is not halted. Nothing leaves the halt but RESET (R144). -/
def SafeRun (n : Nat) (s : State) : Prop := ∃ t, Sys2Proof.core.run n s = .next t ∧ State.Safe t

/-- The fault state is consistent (R37, R38, R39): 0 while not halted; a fatal code while halted; no opcode without its
valid bit. -/
structure State.FaultStateOk (s : State) : Prop where
  clear : s.halted = false → s.faultCode = 0 ∧ s.faultAddr = 0 ∧ s.faultOp = 0 ∧ s.faultOpValid = false
  fatal : s.halted = true → s.faultCode = 3 ∨ s.faultCode = 4 ∨ s.faultCode = 5
  noOpcode : s.faultOpValid = false → s.faultOp = 0

/-- The machine's invariant: memory is in canonical form; nothing below 0x200 differs from the power-on contents (R54);
PC is at most 0x10FE and every stack entry at most 0x0FFE (R23, R43); the fault state is consistent. -/
structure State.Inv (s : State) : Prop where
  memory : Memory.wf s.font s.mem
  reserved : ∀ a, a < Config.progBase → s.byteAt a = initialByte s.font a
  pcBound : s.pc.toNat ≤ 0x10FE
  stackBound : ∀ k : Fin 16, (s.stack[k.val]).toNat ≤ 0x0FFE
  faultState : s.FaultStateOk

end Sys2Proof.Machine
end

