-- ==== Sys2Proof/Certificates/Slice0/Obligations.lean ====
section
/-! DEFINITION. The statements about the model, each named for what it states. A statement whose rule of the spec carries the
spec's own mark `[decision: ...]` or `[derived: ...]` is derived, and its docstring names that mark. -/

open Sys2Proof Sys2Proof.Machine

/-! ### Words used in the statements. -/

/-- From s to t only V and PC may differ. -/
def Sys2Proof.Claim.OnlyVPc (s t : State) : Prop := t = { s with v := t.v, pc := t.pc }

/-- The registers outside a list keep their values. -/
def Sys2Proof.Claim.KeepsVBut (written : List Reg) (s t : State) : Prop := ∀ r, r ∉ written → t.getV r = s.getV r

/-- The state after a fatal fault of a fetched opcode (R141): only the halt and fault state differ. -/
def Sys2Proof.Claim.faulted (s : State) (code : BitVec 3) (addr : Nat) (op : Word) : State :=
  { s with halted := true, faultCode := code, faultAddr := BitVec.ofNat 16 addr, faultOp := op, faultOpValid := true }

/-- The first address of an ascending read from a that is not below 0x1000 (R61). -/
def Sys2Proof.Claim.firstBadRead (a : Nat) : Nat := max a 0x1000

/-- The first address of an ascending store from a that is refused, where one is (R61). -/
def Sys2Proof.Claim.firstBadStore (a : Nat) : Nat := if a < 0x200 then a else max a 0x1000

/-- The state after a fetch that faulted (R141, D46): the halt and fault state, and the model's own RND and queue. -/
def Sys2Proof.Claim.fetchFaulted (s : State) (r : Option Byte) (ops : List HostOp) : State :=
  { s with halted := true, faultCode := 3, faultAddr := BitVec.ofNat 16 (firstBadRead s.pc.toNat), faultOp := 0,
           faultOpValid := false, rnd := r, hostOps := ops }

/-- The next operation is a STEP: a queued one, or that of an empty queue (log entry 4). -/
def Sys2Proof.Claim.NextIsStep (s : State) : Prop := s.hostOps = [] ∨ ∃ b rest, s.hostOps = .step b :: rest

/-- The instruction waits: an Fx0A with no key pressed. -/
def Sys2Proof.Claim.Waits (i : Instr) (s : State) : Prop := (∃ x, i = .ldVxK x) ∧ ∀ k : Reg, s.key[k.val] = false

/-- The registers an instruction may write, by the table R20: V[x], VF as a flag, or V0 to V[x]. -/
def Sys2Proof.Claim.writtenV : Instr → List Reg
  | .ldImm x _ | .addImm x _ | .ldReg x _ | .orReg x _ | .andReg x _ | .xorReg x _ => [x]
  | .rnd x _ | .ldVxDT x | .ldVxK x => [x]
  | .addReg x _ | .subReg x _ | .shr x _ | .subnReg x _ | .shl x _ => [x, regF]
  | .drw _ _ _ => [regF]
  | .loadRegs x => (List.finRange 16).filter (fun r => r ≤ x)
  | _ => []

/-- The bytes an instruction stores, from the address in I on (R62). -/
def Sys2Proof.Claim.storedBytes (i : Instr) (s : State) : List Byte :=
  match i with
  | .ldB x => bcdDigits (s.getV x)
  | .storeRegs x => s.firstV x
  | _ => []

/-- The instructions that end with `PC <- PC + 2` (R90). -/
def Sys2Proof.Claim.sequential : Instr → Bool
  | .ret | .jp _ | .call _ | .jpV0 _ => false
  | .seImm _ _ | .sneImm _ _ | .seReg _ _ | .sneReg _ _ | .skp _ | .sknp _ => false
  | _ => true

/-- Whether a sprite of n rows at (x0, y0), with its rows in memory from a on, has a set bit at (px, py): the column and the
row are counted from the start with wrapping, and bit 7 is the leftmost (R128). -/
def Sys2Proof.Claim.spriteBit (font : Font) (m : Memory) (a x0 y0 n : Nat) (px : Fin 64) (py : Fin 32) : Bool :=
  decide ((px.val + 64 - x0 % 64) % 64 < 8) && decide ((py.val + 32 - y0 % 32) % 32 < n) &&
    (Memory.read font m (a + (py.val + 32 - y0 % 32) % 32)).getLsbD (7 - (px.val + 64 - x0 % 64) % 64)

/-- The sprite bit of `DRW Vx, Vy, n` in a state. -/
def Sys2Proof.Claim.drwBit (s : State) (x y : Reg) (n : BitVec 4) (px : Fin 64) (py : Fin 32) : Bool :=
  Sys2Proof.Claim.spriteBit s.font s.mem s.indexAddr (s.getV x).toNat (s.getV y).toNat n.toNat px py

/-- The value of a field of a descriptor, as a number. -/
def Sys2Proof.Claim.fieldValue (d : Descriptor) : Field → Nat
  | .x => d.x.val
  | .y => d.y.val
  | .n => d.n.toNat
  | .nn => d.nn.toNat
  | .nnn => d.nnn.toNat

/-- The place of an operation in the order of R46. -/
def Sys2Proof.Claim.cycleRank : HostOp → Nat
  | .reset => 0
  | .load _ => 1
  | .setKey k _ => 2 + k.val
  | .step _ => 18
  | .tick => 19

open Sys2Proof.Claim

/-! ### Encoding. -/

/-- R71: every instruction is two bytes, high byte first; fewer bytes are no instruction. -/
def Obligations.InstructionsAreTwoBytesHighFirst : Prop :=
  (∀ (hi lo : Byte) (rest : List Byte) (i : Instr),
    decodeBytes (hi :: lo :: rest) = .ok (i, rest) ↔ decode (BitVec.ofNat 16 (hi.toNat * 256 + lo.toNat)) = .ok i) ∧
  (∀ (hi lo : Byte) (rest : List Byte) (i : Instr) (after : List Byte),
    decodeBytes (hi :: lo :: rest) = .ok (i, after) → after = rest) ∧
  (∀ b : Byte, decodeBytes [b] = .error (.truncated [b])) ∧ decodeBytes [] = .error (.truncated [])

/-- R73: the fields are the document's mask-and-shift extractions, of every opcode, and the operands of a decoded instruction are
the fields its pattern names. -/
def Obligations.FieldsAreTheDocumentsExtractions : Prop :=
  (∀ (op : Word) (i : Instr), decode op = .ok i → ∀ o ∈ i.operands, o.value = fieldValue (describe op) o.field) ∧
  ∀ op : Word,
    (describe op).x.val = ((op &&& 0x0F00#16) >>> 8).toNat ∧
    (describe op).y.val = ((op &&& 0x00F0#16) >>> 4).toNat ∧
    (describe op).n.toNat = (op &&& 0x000F#16).toNat ∧
    (describe op).nn.toNat = (op &&& 0x00FF#16).toNat ∧
    (describe op).nnn.toNat = (op &&& 0x0FFF#16).toNat ∧
    (describe op).family.toNat = op.toNat / 4096

/-- R75: families 1, 2, 3, 4, 6, 7, A, B, C, D each hold one instruction, and every bit pattern in them is it. -/
def Obligations.OneInstructionFamiliesDecodeWhole : Prop :=
  ∀ op : Word,
    (op.toNat / 4096 = 0x1 → decode op = .ok (.jp (op.extractLsb' 0 12))) ∧
    (op.toNat / 4096 = 0x2 → decode op = .ok (.call (op.extractLsb' 0 12))) ∧
    (op.toNat / 4096 = 0x3 → decode op = .ok (.seImm (describe op).x (op.extractLsb' 0 8))) ∧
    (op.toNat / 4096 = 0x4 → decode op = .ok (.sneImm (describe op).x (op.extractLsb' 0 8))) ∧
    (op.toNat / 4096 = 0x6 → decode op = .ok (.ldImm (describe op).x (op.extractLsb' 0 8))) ∧
    (op.toNat / 4096 = 0x7 → decode op = .ok (.addImm (describe op).x (op.extractLsb' 0 8))) ∧
    (op.toNat / 4096 = 0xA → decode op = .ok (.ldI (op.extractLsb' 0 12))) ∧
    (op.toNat / 4096 = 0xB → decode op = .ok (.jpV0 (op.extractLsb' 0 12))) ∧
    (op.toNat / 4096 = 0xC → decode op = .ok (.rnd (describe op).x (op.extractLsb' 0 8))) ∧
    (op.toNat / 4096 = 0xD → decode op = .ok (.drw (describe op).x (describe op).y (op.extractLsb' 0 4)))

/-- R76: the second-level keys of families 0, 5, 8, 9, E and F, and no other value of a key is an instruction. -/
def Obligations.SecondLevelKeysDecode : Prop :=
  ∀ op : Word, ∀ x y : Reg, x = (describe op).x → y = (describe op).y →
    (op.toNat / 4096 = 0x0 →
      (op.toNat % 4096 = 0x0E0 → decode op = .ok .cls) ∧
      (op.toNat % 4096 = 0x0EE → decode op = .ok .ret) ∧
      (op.toNat % 4096 ∉ [0x0E0, 0x0EE] → decode op = .error (.unknownOpcode op))) ∧
    (op.toNat / 4096 = 0x5 →
      (op.toNat % 16 = 0x0 → decode op = .ok (.seReg x y)) ∧
      (op.toNat % 16 ≠ 0x0 → decode op = .error (.unknownOpcode op))) ∧
    (op.toNat / 4096 = 0x8 →
      (op.toNat % 16 = 0x0 → decode op = .ok (.ldReg x y)) ∧
      (op.toNat % 16 = 0x1 → decode op = .ok (.orReg x y)) ∧
      (op.toNat % 16 = 0x2 → decode op = .ok (.andReg x y)) ∧
      (op.toNat % 16 = 0x3 → decode op = .ok (.xorReg x y)) ∧
      (op.toNat % 16 = 0x4 → decode op = .ok (.addReg x y)) ∧
      (op.toNat % 16 = 0x5 → decode op = .ok (.subReg x y)) ∧
      (op.toNat % 16 = 0x6 → decode op = .ok (.shr x y)) ∧
      (op.toNat % 16 = 0x7 → decode op = .ok (.subnReg x y)) ∧
      (op.toNat % 16 = 0xE → decode op = .ok (.shl x y)) ∧
      (7 < op.toNat % 16 → op.toNat % 16 ≠ 0xE → decode op = .error (.unknownOpcode op))) ∧
    (op.toNat / 4096 = 0x9 →
      (op.toNat % 16 = 0x0 → decode op = .ok (.sneReg x y)) ∧
      (op.toNat % 16 ≠ 0x0 → decode op = .error (.unknownOpcode op))) ∧
    (op.toNat / 4096 = 0xE →
      (op.toNat % 256 = 0x9E → decode op = .ok (.skp x)) ∧
      (op.toNat % 256 = 0xA1 → decode op = .ok (.sknp x)) ∧
      (op.toNat % 256 ∉ [0x9E, 0xA1] → decode op = .error (.unknownOpcode op))) ∧
    (op.toNat / 4096 = 0xF →
      (op.toNat % 256 = 0x07 → decode op = .ok (.ldVxDT x)) ∧
      (op.toNat % 256 = 0x0A → decode op = .ok (.ldVxK x)) ∧
      (op.toNat % 256 = 0x15 → decode op = .ok (.ldDTVx x)) ∧
      (op.toNat % 256 = 0x18 → decode op = .ok (.ldSTVx x)) ∧
      (op.toNat % 256 = 0x1E → decode op = .ok (.addI x)) ∧
      (op.toNat % 256 = 0x29 → decode op = .ok (.ldF x)) ∧
      (op.toNat % 256 = 0x33 → decode op = .ok (.ldB x)) ∧
      (op.toNat % 256 = 0x55 → decode op = .ok (.storeRegs x)) ∧
      (op.toNat % 256 = 0x65 → decode op = .ok (.loadRegs x)) ∧
      (op.toNat % 256 ∉ [0x07, 0x0A, 0x15, 0x18, 0x1E, 0x29, 0x33, 0x55, 0x65] →
        decode op = .error (.unknownOpcode op)))

/-- R78, R88: 34 rows, at most one of which matches an opcode; the decoder answers the instruction of the matching row, and
unknown exactly when no row matches. -/
def Obligations.DecodeSelectsTheMatchingRow : Prop :=
  opcodeRows.length = 34 ∧
  (∀ op : Word, ∀ r ∈ opcodeRows, ∀ q ∈ opcodeRows, op &&& r.mask = r.bits → op &&& q.mask = q.bits → r = q) ∧
  (∀ (op : Word) (i : Instr), decode op = .ok i → i.row ∈ opcodeRows ∧ op &&& i.row.mask = i.row.bits) ∧
  (∀ op : Word, decode op = .error (.unknownOpcode op) ↔ ∀ r ∈ opcodeRows, op &&& r.mask ≠ r.bits)

/-- Decoding an encoded instruction gives it back, with every operand at every value. -/
def Obligations.DecodeOfEncode : Prop := ∀ i : Instr, decode (encode i) = .ok i

/-- An opcode that decodes is the encoding of what it decodes to: no bit of it is dropped. -/
def Obligations.EncodeOfDecode : Prop := ∀ (op : Word) (i : Instr), decode op = .ok i → encode i = op

/-- A word of each of the 16 families, written out from its pattern, decodes to its instruction, and one word is unknown. -/
def Obligations.WordsOfEachFamilyDecode : Prop :=
  decode 0x00E0#16 = .ok .cls ∧ decode 0x1ABC#16 = .ok (.jp 0xABC) ∧ decode 0x2ABC#16 = .ok (.call 0xABC) ∧
  decode 0x3A5C#16 = .ok (.seImm 0xA 0x5C) ∧ decode 0x4A5C#16 = .ok (.sneImm 0xA 0x5C) ∧
  decode 0x5AB0#16 = .ok (.seReg 0xA 0xB) ∧ decode 0x6A5C#16 = .ok (.ldImm 0xA 0x5C) ∧
  decode 0x7A5C#16 = .ok (.addImm 0xA 0x5C) ∧ decode 0x8AB6#16 = .ok (.shr 0xA 0xB) ∧
  decode 0x9AB0#16 = .ok (.sneReg 0xA 0xB) ∧ decode 0xAABC#16 = .ok (.ldI 0xABC) ∧ decode 0xBABC#16 = .ok (.jpV0 0xABC) ∧
  decode 0xCA5C#16 = .ok (.rnd 0xA 0x5C) ∧ decode 0xDAB5#16 = .ok (.drw 0xA 0xB 5) ∧ decode 0xEA9E#16 = .ok (.skp 0xA) ∧
  decode 0xFA0A#16 = .ok (.ldVxK 0xA) ∧ decode 0xFA33#16 = .ok (.ldB 0xA) ∧ decode 0x5555#16 = .error (.unknownOpcode 0x5555)

/-! ### The cycle. -/

/-- The opcode is the two bytes at PC, and PC still holds its address in the STEP result; a STEP with PC at 0xFFF or above raises
OutOfRange before any decoding, with PC and all else but the halt and fault state (and the model's own RND field and queue) as
before. What the fault records is D14, D27, D40 and D46, the spec's own choices. That an empty queue is a STEP is the model's choice
(log entry 4). -/
def Obligations.FetchReadsTwoBytesAtPc : Prop :=
  (∀ (font : Font) (m : Memory) (a : Nat), a ≤ 0xFFE →
    fetch font m a = .ok (BitVec.ofNat 16 ((Memory.read font m a).toNat * 256 + (Memory.read font m (a + 1)).toNat))) ∧
  (∀ s t : State, s.halted = false → s.pc.toNat ≤ 0xFFE → (stepResult s t).opcodeValid = true ∧ (stepResult s t).pc = s.pc ∧
    (stepResult s t).opcode.toNat = (s.byteAt s.pc.toNat).toNat * 256 + (s.byteAt (s.pc.toNat + 1)).toNat) ∧
  (∀ s : State, s.halted = false → 0xFFF ≤ s.pc.toNat →
    (s.hostOps = [] → step s = .next (fetchFaulted s none [])) ∧
    (∀ (b : Byte) (rest : List HostOp), s.hostOps = .step b :: rest → step s = .next (fetchFaulted s (some b) rest)) ∧
    ∀ (r : Option Byte) (ops : List HostOp), stepResult s (fetchFaulted s r ops) =
      ⟨3, 0, false, s.pc, false, false, BitVec.ofNat 16 (firstBadRead s.pc.toNat)⟩)

/-- A step runs the decoded instruction: with the two bytes at PC those of an instruction, the step is its exec, after the
RND of this STEP is put in place (none where the host issued no operation; the host's byte for a queued STEP). -/
def Obligations.StepRunsTheDecodedInstruction : Prop :=
  ∀ (s : State) (i : Instr), s.halted = false → s.pc.toNat ≤ 0xFFE →
    decodeBytes [s.byteAt s.pc.toNat, s.byteAt (s.pc.toNat + 1)] = .ok (i, []) →
    (s.hostOps = [] → step s = exec i { s with rnd := none }) ∧
    (∀ (b : Byte) (rest : List HostOp), s.hostOps = .step b :: rest →
      step s = exec i { s with rnd := some b, hostOps := rest })

/-- An instruction placed by withFetchWord is what the very next step runs. -/
def Obligations.PlacedInstructionRunsNext : Prop :=
  ∀ (s : State) (i : Instr),
    step (s.withFetchWord 16 (encode i).toNat) = exec i { s.withFetchWord 16 (encode i).toNat with rnd := none }

/-- An unknown opcode changes nothing but PC, by 2 (and the model's own RND field and queue), and is reported in the STEP result with
status 2 (D27, D29, the spec's own choices). That an empty queue is a STEP is the model's choice (log entry 4). -/
def Obligations.UnknownOpcodeIsReportedAndSkipped : Prop :=
  ∀ (s : State) (op : Word), s.halted = false → s.pc.toNat ≤ 0xFFE →
    fetch s.font s.mem s.pc.toNat = .ok op → (∀ r ∈ opcodeRows, op &&& r.mask ≠ r.bits) →
    (s.hostOps = [] → step s = .next { s with pc := s.pc + 2, rnd := none }) ∧
    (∀ (b : Byte) (rest : List HostOp), s.hostOps = .step b :: rest →
      step s = .next { s with pc := s.pc + 2, rnd := some b, hostOps := rest }) ∧
    ∀ (r : Option Byte) (ops : List HostOp),
      stepResult s { s with pc := s.pc + 2, rnd := r, hostOps := ops } = ⟨2, op, true, s.pc, false, false, s.faultAddr⟩

/-- While halted, STEP and TICK change no state of the core and answer the stored fault (D26, the spec's own choice); the
fields rnd and hostOps are the model's own. -/
def Obligations.HaltedCoreIgnoresStepAndTick : Prop :=
  ∀ s : State, s.halted = true →
    (s.hostOps = [] → step s = .next { s with rnd := none }) ∧
    (∀ (b : Byte) (rest : List HostOp), s.hostOps = .step b :: rest →
      step s = .next { s with rnd := some b, hostOps := rest }) ∧
    (∀ rest : List HostOp, s.hostOps = .tick :: rest → step s = .next { s with hostOps := rest }) ∧
    tickToneEnd s = false ∧
    ∀ t : State, stepResult s t = ⟨s.faultCode, 0, false, s.pc, false, false, s.faultAddr⟩

/-- Every step answers a next state: no instruction, no operation and no operand stops the machine. That a fatal fault is a next state
and no stop is the model's deduction from R13, R49 and R141 (DEDUCED, log entry 5). -/
def Obligations.EveryStepAnswersANextState : Prop :=
  (∀ (i : Instr) (s : State), ∃ t, exec i s = .next t) ∧ ∀ s : State, ∃ t, step s = .next t

/-- R90: every sequential instruction that completes advances PC by exactly 2, an unknown opcode too; after a successful fetch
the result is at most 0x1000. A key wait that finds no key does not complete. -/
def Obligations.SequentialInstructionsAdvanceByTwo : Prop :=
  (∀ (i : Instr) (s t : State), sequential i = true → (∀ x, i = .ldVxK x → ∃ k : Reg, s.key[k.val] = true) →
    s.halted = false → exec i s = .next t → t.halted = false →
    t.pc = s.pc + 2 ∧ (s.pc.toNat ≤ 0xFFE → t.pc.toNat ≤ 0x1000)) ∧
  (∀ s : State, (unknownOpcode s).pc = s.pc + 2)

/-- Every fault is precise: an instruction that halts the session changes nothing but the halt and fault state, which record a
fatal code and its own opcode (D14, D26, D40, the spec's own choices). -/
def Obligations.FatalFaultsArePrecise : Prop :=
  ∀ (i : Instr) (s t : State), exec i s = .next t → s.halted = false → t.halted = true →
    t = { s with halted := true, faultCode := t.faultCode, faultAddr := t.faultAddr, faultOp := encode i,
                 faultOpValid := true } ∧
    (t.faultCode = 3 ∨ (t.faultCode = 4 ∧ s.sp = 16 ∧ t.faultAddr = s.pc) ∨
      (t.faultCode = 5 ∧ s.sp = 0 ∧ t.faultAddr = s.pc))

/-! ### Control transfer. -/

/-- R99: JP nnn sets PC and nothing else. -/
def Obligations.JpSetsPcOnly : Prop :=
  (∀ op : Word, op &&& 0xF000#16 = 0x1000#16 → decode op = .ok (.jp (op.extractLsb' 0 12))) ∧
  (∀ (nnn : BitVec 12) (s : State), ∃ t, exec (.jp nnn) s = .next t ∧ t.pc.toNat = nnn.toNat ∧ t = { s with pc := t.pc })

/-- JP V0, nnn sets PC to the exact sum and nothing else; the sum is not reduced (D3, the spec's own choice). -/
def Obligations.JpV0AddsV0 : Prop :=
  ∀ (nnn : BitVec 12) (s : State), ∃ t, exec (.jpV0 nnn) s = .next t ∧
    t.pc.toNat = nnn.toNat + (s.getV 0).toNat ∧ t = { s with pc := t.pc }

/-- CALL pushes its own address below a full stack (D6, D7, the spec's own choices): only that entry, SP and PC change. With a
full stack it is a fatal StackOverflow that records the CALL's address (D14, D40). -/
def Obligations.CallPushesItsAddressOrOverflows : Prop :=
  ∀ (nnn : BitVec 12) (s : State),
    (s.sp.val < 16 → ∃ t, exec (.call nnn) s = .next t ∧
      t.sp.val = s.sp.val + 1 ∧ t.pc.toNat = nnn.toNat ∧
      (∀ k : Fin 16, t.stack[k.val] = if k.val = s.sp.val then s.pc else s.stack[k.val]) ∧
      t = { s with sp := t.sp, stack := t.stack, pc := t.pc }) ∧
    (s.sp = 16 → exec (.call nnn) s = .next (faulted s 4 s.pc.toNat (encode (.call nnn))))

/-- RET takes the top entry, leaves it in the stack, and continues after the CALL that pushed it (D6, D7, the spec's own choices).
With an empty stack it is a fatal StackUnderflow that records the RET's address (D14, D40). -/
def Obligations.RetContinuesAfterTheCallOrUnderflows : Prop :=
  ∀ s : State,
    (∀ k : Fin 16, s.sp.val = k.val + 1 → ∃ t, exec .ret s = .next t ∧
      t.sp.val = k.val ∧ t.pc = s.stack[k.val] + 2 ∧ t = { s with sp := t.sp, pc := t.pc }) ∧
    (s.sp = 0 → exec .ret s = .next (faulted s 5 s.pc.toNat (encode .ret)))

/-- CALL then RETURN: a subroutine body that leaves SP and the stack as the CALL left them returns to the instruction after the
CALL, with SP at its value before the call. -/
def Obligations.CallThenRetReturns : Prop :=
  ∀ (nnn : BitVec 12) (s body : State), s.sp.val < 16 → ∃ t, exec (.call nnn) s = .next t ∧
    (body.sp = t.sp → body.stack = t.stack → ∃ u, exec .ret body = .next u ∧ u.pc = s.pc + 2 ∧ u.sp = s.sp)

/-! ### Skips. -/

/-- R102, R103, R104: SE Vx, nn; SNE Vx, nn; SE Vx, Vy. -/
def Obligations.SkipsOnComparison : Prop :=
  (∀ op : Word, op &&& 0xF000#16 = 0x3000#16 → decode op = .ok (.seImm (describe op).x (op.extractLsb' 0 8))) ∧
  (∀ op : Word, op &&& 0xF000#16 = 0x4000#16 → decode op = .ok (.sneImm (describe op).x (op.extractLsb' 0 8))) ∧
  (∀ op : Word, op &&& 0xF00F#16 = 0x5000#16 → decode op = .ok (.seReg (describe op).x (describe op).y)) ∧
  (∀ op : Word, op &&& 0xF000#16 = 0x5000#16 → op &&& 0xF00F#16 ≠ 0x5000#16 → decode op = .error (.unknownOpcode op)) ∧
  (∀ (x : Reg) (nn : Byte) (s : State),
    exec (.seImm x nn) s = .next { s with pc := if s.getV x = nn then s.pc + 4 else s.pc + 2 } ∧
    exec (.sneImm x nn) s = .next { s with pc := if s.getV x ≠ nn then s.pc + 4 else s.pc + 2 }) ∧
  (∀ (x y : Reg) (s : State),
    exec (.seReg x y) s = .next { s with pc := if s.getV x = s.getV y then s.pc + 4 else s.pc + 2 })

/-- SNE Vx, Vy (that a nonzero low nibble is unknown is D31). -/
def Obligations.SneRegSkipsWhenDifferent : Prop :=
  ∀ (x y : Reg) (s : State),
    exec (.sneReg x y) s = .next { s with pc := if s.getV x ≠ s.getV y then s.pc + 4 else s.pc + 2 }

/-- SKP and SKNP with a key index of 0 to 0xF: the level of that key decides, and only PC changes. -/
def Obligations.KeySkipsReadTheLevel : Prop :=
  ∀ (x : Reg) (s : State) (k : Reg), (s.getV x).toNat = k.val →
    exec (.skp x) s = .next { s with pc := if s.key[k.val] = true then s.pc + 4 else s.pc + 2 } ∧
    exec (.sknp x) s = .next { s with pc := if s.key[k.val] = false then s.pc + 4 else s.pc + 2 }

/-- SKP and SKNP with an index above 0xF are a fatal OutOfRange that records the index (D20, D40, the spec's own choices). -/
def Obligations.KeySkipsFaultAboveF : Prop :=
  ∀ (x : Reg) (s : State), 0xF < (s.getV x).toNat →
    exec (.skp x) s = .next (faulted s 3 (s.getV x).toNat (encode (.skp x))) ∧
    exec (.sknp x) s = .next (faulted s 3 (s.getV x).toNat (encode (.sknp x)))

/-! ### The ALU. -/

/-- R109: LD Vx, nn. -/
def Obligations.LoadImmediate : Prop :=
  (∀ op : Word, op &&& 0xF000#16 = 0x6000#16 → decode op = .ok (.ldImm (describe op).x (op.extractLsb' 0 8))) ∧
  (∀ (x : Reg) (nn : Byte) (s : State), ∃ t, exec (.ldImm x nn) s = .next t ∧
    t.getV x = nn ∧ KeepsVBut [x] s t ∧ t.pc = s.pc + 2 ∧ OnlyVPc s t)

/-- R110: ADD Vx, nn wraps and writes no flag. -/
def Obligations.AddImmediateWraps : Prop :=
  (∀ op : Word, op &&& 0xF000#16 = 0x7000#16 → decode op = .ok (.addImm (describe op).x (op.extractLsb' 0 8))) ∧
  (∀ (x : Reg) (nn : Byte) (s : State), ∃ t, exec (.addImm x nn) s = .next t ∧
    (t.getV x).toNat = ((s.getV x).toNat + nn.toNat) % 256 ∧ KeepsVBut [x] s t ∧ t.pc = s.pc + 2 ∧ OnlyVPc s t)

/-- Assign, OR, AND, XOR write V[x] from the old operands, bit by bit, and no flag (D11, the spec's own choice). -/
def Obligations.AssignAndLogicWriteVxOnly : Prop :=
  ∀ (x y : Reg) (s : State),
    (∃ t, exec (.ldReg x y) s = .next t ∧ t.getV x = s.getV y ∧
      KeepsVBut [x] s t ∧ t.pc = s.pc + 2 ∧ OnlyVPc s t) ∧
    (∃ t, exec (.orReg x y) s = .next t ∧
      (∀ j < 8, (t.getV x).getLsbD j = ((s.getV x).getLsbD j || (s.getV y).getLsbD j)) ∧
      KeepsVBut [x] s t ∧ t.pc = s.pc + 2 ∧ OnlyVPc s t) ∧
    (∃ t, exec (.andReg x y) s = .next t ∧
      (∀ j < 8, (t.getV x).getLsbD j = ((s.getV x).getLsbD j && (s.getV y).getLsbD j)) ∧
      KeepsVBut [x] s t ∧ t.pc = s.pc + 2 ∧ OnlyVPc s t) ∧
    (∃ t, exec (.xorReg x y) s = .next t ∧
      (∀ j < 8, (t.getV x).getLsbD j = ((s.getV x).getLsbD j != (s.getV y).getLsbD j)) ∧
      KeepsVBut [x] s t ∧ t.pc = s.pc + 2 ∧ OnlyVPc s t)

/-- ADD Vx, Vy: V[x] is the sum modulo 256 unless x = F; VF is the carry of the exact sum in every form (D9, D10, the spec's
own choices, for x = F or y = F). -/
def Obligations.AddSetsCarry : Prop :=
  ∀ (x y : Reg) (s : State), ∃ t, exec (.addReg x y) s = .next t ∧
    (x ≠ regF → (t.getV x).toNat = ((s.getV x).toNat + (s.getV y).toNat) % 256) ∧
    (t.getV regF).toNat = (if (s.getV x).toNat + (s.getV y).toNat > 255 then 1 else 0) ∧
    KeepsVBut [x, regF] s t ∧ t.pc = s.pc + 2 ∧ OnlyVPc s t

/-- SUB Vx, Vy and SUBN Vx, Vy: the difference modulo 256 unless x = F, and VF = 1 for no borrow (D9, D10). -/
def Obligations.SubtractionsSetNoBorrow : Prop :=
  ∀ (x y : Reg) (s : State),
    (∃ t, exec (.subReg x y) s = .next t ∧
      (x ≠ regF → ((t.getV x).toNat : Int) = ((s.getV x).toNat - (s.getV y).toNat : Int) % 256) ∧
      (t.getV regF).toNat = (if (s.getV x).toNat ≥ (s.getV y).toNat then 1 else 0) ∧
      KeepsVBut [x, regF] s t ∧ t.pc = s.pc + 2 ∧ OnlyVPc s t) ∧
    (∃ t, exec (.subnReg x y) s = .next t ∧
      (x ≠ regF → ((t.getV x).toNat : Int) = ((s.getV y).toNat - (s.getV x).toNat : Int) % 256) ∧
      (t.getV regF).toNat = (if (s.getV y).toNat ≥ (s.getV x).toNat then 1 else 0) ∧
      KeepsVBut [x, regF] s t ∧ t.pc = s.pc + 2 ∧ OnlyVPc s t)

/-- SHR Vx and SHL Vx shift V[x] by one, ignore y (D8, the spec's own choice), and VF is the bit shifted out (D9). -/
def Obligations.ShiftsByOneSetTheBitOut : Prop :=
  ∀ (x y : Reg) (s : State),
    (∃ t, exec (.shr x y) s = .next t ∧
      (x ≠ regF → (t.getV x).toNat = (s.getV x).toNat / 2) ∧ (t.getV regF).toNat = (s.getV x).toNat % 2 ∧
      KeepsVBut [x, regF] s t ∧ t.pc = s.pc + 2 ∧ OnlyVPc s t) ∧
    (∃ t, exec (.shl x y) s = .next t ∧
      (x ≠ regF → (t.getV x).toNat = (s.getV x).toNat * 2 % 256) ∧ (t.getV regF).toNat = (s.getV x).toNat / 128 ∧
      KeepsVBut [x, regF] s t ∧ t.pc = s.pc + 2 ∧ OnlyVPc s t)

/-- RND Vx, nn: the random byte of this STEP, masked. It is the byte the host pinned where it pinned one; else it is free, and no law
of it is known (D21, OPEN; log entry 3). A queued STEP pins its byte. -/
def Obligations.RndMasksTheRandomByte : Prop :=
  (∀ (x : Reg) (nn : Byte) (s : State), ∃ t, exec (.rnd x nn) s = .next t ∧
    t.getV x = s.rndByte &&& nn ∧ (∀ b, s.rnd = some b → t.getV x = b &&& nn) ∧
    KeepsVBut [x] s t ∧ t.pc = s.pc + 2 ∧ t = { s with v := t.v, pc := t.pc, rndCount := s.rndCount + 1 }) ∧
  (∀ (x : Reg) (nn b : Byte) (s : State) (rest : List HostOp), s.hostOps = .step b :: rest → s.halted = false →
    fetch s.font s.mem s.pc.toNat = .ok (encode (.rnd x nn)) → ∃ t, step s = .next t ∧ t.getV x = b &&& nn)

/-! ### The index register and memory. -/

/-- R121: LD I, nnn. -/
def Obligations.LoadIndex : Prop :=
  (∀ op : Word, op &&& 0xF000#16 = 0xA000#16 → decode op = .ok (.ldI (op.extractLsb' 0 12))) ∧
  (∀ (nnn : BitVec 12) (s : State), ∃ t, exec (.ldI nnn) s = .next t ∧
    t.i.toNat = nnn.toNat ∧ t.pc = s.pc + 2 ∧ t = { s with i := t.i, pc := t.pc })

/-- ADD I, Vx is modulo 2^16, not masked to 12 bits (D4, the spec's own choice), and writes no flag. -/
def Obligations.AddIndexWrapsAt16Bits : Prop :=
  ∀ (x : Reg) (s : State), ∃ t, exec (.addI x) s = .next t ∧
    t.i.toNat = (s.i.toNat + (s.getV x).toNat) % 2 ^ 16 ∧ t.pc = s.pc + 2 ∧ t = { s with i := t.i, pc := t.pc }

/-- LD F, Vx: five times the low nibble of V[x], from FONT_BASE = 0x000 (D22, the spec's own choice). -/
def Obligations.LoadGlyphAddress : Prop :=
  ∀ (x : Reg) (s : State), ∃ t, exec (.ldF x) s = .next t ∧
    t.i.toNat = 5 * ((s.getV x).toNat % 16) ∧ t.pc = s.pc + 2 ∧ t = { s with i := t.i, pc := t.pc }

/-- LD B, Vx with its three addresses in 0x200..0xFFF: the three decimal digits are stored from the address in I on; every
other byte reads as before, and only memory and PC change (I is not modified: D12). -/
def Obligations.BcdStoresThreeDigits : Prop :=
  ∀ (x : Reg) (s : State), 0x200 ≤ s.indexAddr → s.indexAddr + 2 < 0x1000 → ∃ t, exec (.ldB x) s = .next t ∧
    (t.byteAt s.indexAddr).toNat = (s.getV x).toNat / 100 ∧
    (t.byteAt (s.indexAddr + 1)).toNat = (s.getV x).toNat / 10 % 10 ∧
    (t.byteAt (s.indexAddr + 2)).toNat = (s.getV x).toNat % 10 ∧
    (∀ a, a < s.indexAddr ∨ s.indexAddr + 3 ≤ a → t.byteAt a = s.byteAt a) ∧
    t.pc = s.pc + 2 ∧ t = { s with mem := t.mem, pc := t.pc }

/-- LD [I], Vx with all its addresses in 0x200..0xFFF: V0 to V[x] are stored from the address in I on; every other byte reads
as before, and only memory and PC change (D12). -/
def Obligations.StoreRegsStoresV0ToVx : Prop :=
  ∀ (x : Reg) (s : State), 0x200 ≤ s.indexAddr → s.indexAddr + x.val < 0x1000 → ∃ t, exec (.storeRegs x) s = .next t ∧
    (∀ k : Reg, k ≤ x → t.byteAt (s.indexAddr + k.val) = s.getV k) ∧
    (∀ a, a < s.indexAddr ∨ s.indexAddr + x.val < a → t.byteAt a = s.byteAt a) ∧
    t.pc = s.pc + 2 ∧ t = { s with mem := t.mem, pc := t.pc }

/-- A store with an address below 0x200 or at 0x1000 or above is a fatal OutOfRange that records the first such address; no
byte is stored, not even those before it (D13, D14, the spec's own choices). -/
def Obligations.StoresOutsideProgramAreaFault : Prop :=
  ∀ (x : Reg) (s : State),
    (s.indexAddr < 0x200 ∨ 0x1000 ≤ s.indexAddr + 2 →
      exec (.ldB x) s = .next (faulted s 3 (firstBadStore s.indexAddr) (encode (.ldB x)))) ∧
    (s.indexAddr < 0x200 ∨ 0x1000 ≤ s.indexAddr + x.val →
      exec (.storeRegs x) s = .next (faulted s 3 (firstBadStore s.indexAddr) (encode (.storeRegs x))))

/-- LD Vx, [I] with all its addresses below 0x1000, the font and the reserved area included (D48): V0 to V[x] are loaded, the
other registers stay, and only V and PC change (D12). -/
def Obligations.LoadRegsLoadsV0ToVx : Prop :=
  ∀ (x : Reg) (s : State), s.indexAddr + x.val < 0x1000 → ∃ t, exec (.loadRegs x) s = .next t ∧
    (∀ k : Reg, k ≤ x → t.getV k = s.byteAt (s.indexAddr + k.val)) ∧
    (∀ k : Reg, x < k → t.getV k = s.getV k) ∧ t.pc = s.pc + 2 ∧ OnlyVPc s t

/-- LD Vx, [I] with an address at 0x1000 or above is a fatal OutOfRange that records the first such address; no register is
written (D14). -/
def Obligations.LoadRegsBeyondMemoryFaults : Prop :=
  ∀ (x : Reg) (s : State), 0x1000 ≤ s.indexAddr + x.val →
    exec (.loadRegs x) s = .next (faulted s 3 (firstBadRead s.indexAddr) (encode (.loadRegs x)))

/-! ### The display. -/

/-- R127: CLS clears every pixel; only DISP and PC change; display_changed is 1 exactly where a pixel was set. -/
def Obligations.ClsClearsEveryPixel : Prop :=
  (∀ op : Word, op = 0x00E0#16 ↔ decode op = .ok .cls) ∧
  (∀ s : State, ∃ t, exec .cls s = .next t ∧ (∀ px py, Display.pixel t.disp px py = false) ∧ t.pc = s.pc + 2 ∧
    t = { s with disp := t.disp, pc := t.pc } ∧
    (s.halted = false → fetch s.font s.mem s.pc.toNat = .ok 0x00E0#16 →
      ((stepResult s t).displayChanged = true ↔ ∃ px py, Display.pixel s.disp px py = true)))

/-- DRW Vx, Vy, n with its rows in memory: a pixel is inverted exactly where the sprite, wrapped on both axes, has a set bit, and
VF is 1 exactly when such a pixel was set (D15, D16, D17, the spec's own choices; n = 0 reads nothing). -/
def Obligations.DrawXorsTheSpriteAndSetsCollision : Prop :=
  ∀ (x y : Reg) (n : BitVec 4) (s : State), n = 0 ∨ s.indexAddr + n.toNat ≤ 0x1000 →
    ∃ t, exec (.drw x y n) s = .next t ∧
      (∀ px py, Display.pixel t.disp px py = (Display.pixel s.disp px py != drwBit s x y n px py)) ∧
      ((∃ px py, drwBit s x y n px py = true ∧ Display.pixel s.disp px py = true) → t.getV regF = 1) ∧
      ((∀ px py, drwBit s x y n px py = true → Display.pixel s.disp px py = false) → t.getV regF = 0) ∧
      KeepsVBut [regF] s t ∧ t.pc = s.pc + 2 ∧ t = { s with disp := t.disp, v := t.v, pc := t.pc }

/-- DRW with a row at 0x1000 or above is a fatal OutOfRange that records the first such address; the display and VF stay
(D14). -/
def Obligations.DrawBeyondMemoryFaults : Prop :=
  ∀ (x y : Reg) (n : BitVec 4) (s : State), n ≠ 0 → 0x1000 < s.indexAddr + n.toNat →
    exec (.drw x y n) s = .next (faulted s 3 (firstBadRead s.indexAddr) (encode (.drw x y n)))

/-- Drawing the same sprite twice at the same coordinates restores the display, and the second VF is 1 exactly when a set sprite
bit lies on a pixel that was 0 before the first draw. The first draw may write VF, so the premise on the coordinates matters where
x or y is F. -/
def Obligations.DrawingTwiceRestoresTheDisplay : Prop :=
  ∀ (x y : Reg) (n : BitVec 4) (s : State), n = 0 ∨ s.indexAddr + n.toNat ≤ 0x1000 →
    ∃ t, exec (.drw x y n) s = .next t ∧
      (t.getV x = s.getV x → t.getV y = s.getV y → ∃ u, exec (.drw x y n) t = .next u ∧ u.disp = s.disp ∧
        (u.getV regF = 1 ↔ ∃ px py, drwBit s x y n px py = true ∧ Display.pixel s.disp px py = false) ∧
        (u.getV regF = 0 ∨ u.getV regF = 1))

/-! ### Timers and keys. -/

/-- R130, R132: LD Vx, DT and LD DT, Vx. -/
def Obligations.DelayTimerIsReadAndWritten : Prop :=
  (∀ op : Word, op &&& 0xF0FF#16 = 0xF007#16 → decode op = .ok (.ldVxDT (describe op).x)) ∧
  (∀ op : Word, op &&& 0xF0FF#16 = 0xF015#16 → decode op = .ok (.ldDTVx (describe op).x)) ∧
  (∀ (x : Reg) (s : State), ∃ t, exec (.ldVxDT x) s = .next t ∧
    t.getV x = s.dt ∧ KeepsVBut [x] s t ∧ t.pc = s.pc + 2 ∧ OnlyVPc s t) ∧
  (∀ (x : Reg) (s : State), exec (.ldDTVx x) s = .next { s with dt := s.getV x, pc := s.pc + 2 })

/-- LD ST, Vx sets the sound timer; sound_active is then whether it is not 0 (D28, the spec's own choice). -/
def Obligations.SoundTimerIsWritten : Prop :=
  ∀ (x : Reg) (s : State), ∃ t, exec (.ldSTVx x) s = .next t ∧
    t = { s with st := s.getV x, pc := s.pc + 2 } ∧ (soundActive t = true ↔ s.getV x ≠ 0)

/-- LD Vx, K with no key pressed changes nothing and its STEP reports AWAITING_INPUT (D47, D27, the spec's own choices); with a key
pressed it takes the lowest pressed key and its STEP reports OK (D19, D27, the spec's own choices). -/
def Obligations.KeyWaitTakesTheLowestKeyOrWaits : Prop :=
  ∀ (x : Reg) (s : State),
    ((∀ k : Reg, s.key[k.val] = false) →
      exec (.ldVxK x) s = .next s ∧
      (s.halted = false → fetch s.font s.mem s.pc.toNat = .ok (encode (.ldVxK x)) → (stepResult s s).status = 1)) ∧
    (∀ k : Reg, s.key[k.val] = true → (∀ j : Reg, j < k → s.key[j.val] = false) →
      ∃ t, exec (.ldVxK x) s = .next t ∧ (t.getV x).toNat = k.val ∧ KeepsVBut [x] s t ∧ t.pc = s.pc + 2 ∧ OnlyVPc s t ∧
        (s.halted = false → fetch s.font s.mem s.pc.toNat = .ok (encode (.ldVxK x)) → (stepResult s t).status = 0))

/-! ### Frames over all instructions. -/

/-- No byte of memory changes but those Fx33 and Fx55 store, from the address in I on; every other instruction stores none. -/
def Obligations.MemoryChangesOnlyWhereStored : Prop :=
  ∀ (i : Instr) (s t : State), exec i s = .next t →
    ∀ a, a < s.indexAddr ∨ s.indexAddr + (storedBytes i s).length ≤ a → t.byteAt a = s.byteAt a

/-- Who writes what: V by the table R20, I only by Annn, Fx1E and Fx29, SP and STACK only by 2nnn and 00EE, DT by Fx15, ST by Fx18,
DISP by 00E0 and Dxyn, KEY by no instruction. That Fx55 and Fx65 leave I is D12, that 8xy1 to 8xy3 leave VF is D11, the form of the
stack is D7, the spec's own choices (log entry 1). The model's own RND, queue and FONT are written by none (log entries 2, 3, 4). -/
def Obligations.EachRegisterHasItsWriters : Prop :=
  ∀ (i : Instr) (s t : State), exec i s = .next t →
    KeepsVBut (writtenV i) s t ∧
    (t.i = s.i ∨ (∃ nnn, i = .ldI nnn) ∨ (∃ x, i = .addI x) ∨ ∃ x, i = .ldF x) ∧
    (t.sp = s.sp ∨ (∃ nnn, i = .call nnn) ∨ i = .ret) ∧
    (t.stack = s.stack ∨ ∃ nnn, i = .call nnn) ∧
    (t.dt = s.dt ∨ ∃ x, i = .ldDTVx x) ∧
    (t.st = s.st ∨ ∃ x, i = .ldSTVx x) ∧
    (t.disp = s.disp ∨ i = .cls ∨ ∃ x y n, i = .drw x y n) ∧
    t.key = s.key ∧ t.hostOps = s.hostOps ∧ t.rnd = s.rnd ∧ t.font = s.font

/-- What a STEP result reports: the display changed only by 00E0 or Dxyn, and a tone ended only by Fx18 with V[x] = 0 over a running
sound timer (D18, D28, the spec's own choices). It is said of a queued STEP and of that of an empty queue (log entry 4). -/
def Obligations.StepReportsHaveTheirCauses : Prop :=
  ∀ s t : State, NextIsStep s → step s = .next t →
    ((stepResult s t).displayChanged = true →
      decode (stepResult s t).opcode = .ok .cls ∨ ∃ x y n, decode (stepResult s t).opcode = .ok (.drw x y n)) ∧
    ((stepResult s t).toneEnd = true →
      ∃ x, decode (stepResult s t).opcode = .ok (.ldSTVx x) ∧ s.getV x = 0 ∧ s.st ≠ 0)

/-! ### The host's operations. -/

/-- R151: TICK decrements each non-zero timer by 1 and touches nothing else; its tone_end is the 1-to-0 transition of ST; while
halted it does nothing. -/
def Obligations.TickDecrementsTheTimers : Prop :=
  ∀ (s : State) (rest : List HostOp), s.hostOps = .tick :: rest → ∃ t, step s = .next t ∧
    (s.halted = true → t = { s with hostOps := rest } ∧ tickToneEnd s = false) ∧
    (s.halted = false →
      t.dt.toNat = s.dt.toNat - 1 ∧ t.st.toNat = s.st.toNat - 1 ∧
      t = { s with dt := t.dt, st := t.st, hostOps := rest } ∧ (tickToneEnd s = true ↔ s.st.toNat = 1))

/-- RESET gives every register, the stack, the display, the font and the fault state their reset values, and leaves the rest of memory
and the keys (D24, D26, D36, the spec's own choices), whatever the parameter FONT is (log entry 2). -/
def Obligations.ResetReinitialisesAllButProgramAndKeys : Prop :=
  ∀ (s : State) (rest : List HostOp), s.hostOps = .reset :: rest → ∃ t, step s = .next t ∧
    t = { State.powerOn s.font with mem := t.mem, key := s.key, rnd := s.rnd, rndCount := s.rndCount, hostOps := rest } ∧
    (∀ (a : Nat) (h : a < 80), t.byteAt a = s.font[a]) ∧
    (∀ a, 80 ≤ a → t.byteAt a = s.byteAt a)

/-- LOAD copies a program of at most 3584 bytes to 0x200 and sets PC to 0x200, halted or not; a longer one changes no state and answers
LOAD_TOO_LARGE (C1, D37, the spec's own choices). -/
def Obligations.LoadCopiesTheProgram : Prop :=
  ∀ (s : State) (bytes : List Byte) (rest : List HostOp), s.hostOps = .load bytes :: rest → ∃ t, step s = .next t ∧
    (bytes.length ≤ 3584 →
      (loadStatus bytes).code = 0 ∧ t = { s with mem := t.mem, pc := 0x200, hostOps := rest } ∧
      (∀ k, (h : k < bytes.length) → t.byteAt (0x200 + k) = bytes[k]) ∧
      (∀ a, a < 0x200 ∨ 0x200 + bytes.length ≤ a → t.byteAt a = s.byteAt a)) ∧
    (3584 < bytes.length → (loadStatus bytes).code = 6 ∧ t = { s with hostOps := rest })

/-- SET_KEY sets one key's flag and changes nothing else, halted or not. That it acts while halted is D26, and that the index is of
4 bits is D43, the spec's own choices (log entry 1). -/
def Obligations.SetKeySetsOneFlag : Prop :=
  ∀ (s : State) (k : Reg) (p : Bool) (rest : List HostOp), s.hostOps = .setKey k p :: rest → ∃ t, step s = .next t ∧
    t.key[k.val] = p ∧ (∀ j : Reg, j ≠ k → t.key[j.val] = s.key[j.val]) ∧
    t = { s with key := t.key, hostOps := rest }

/-- Operations presented in one cycle are listed in the order RESET, LOAD, SET_KEY by index, STEP, TICK (D2, the spec's own choice), and
none is lost or added; a step performs the oldest of the queue and leaves the others, so that a state whose queue is that list performs
them in turn. The queue, and that a cycle presents at most one of each and at most one SET_KEY a key, are the model's choice
(log entry 4). -/
def Obligations.PresentedOperationsAreInOrder : Prop :=
  ∀ p : Presented,
    (presentedOps p).Pairwise (fun a b => cycleRank a < cycleRank b) ∧
    (HostOp.reset ∈ presentedOps p ↔ p.reset = true) ∧
    (∀ bytes, HostOp.load bytes ∈ presentedOps p ↔ p.load = some bytes) ∧
    (∀ (k : Reg) (b : Bool), HostOp.setKey k b ∈ presentedOps p ↔ p.keys[k.val] = some b) ∧
    (∀ b, HostOp.step b ∈ presentedOps p ↔ p.step = some b) ∧
    (HostOp.tick ∈ presentedOps p ↔ p.tick = true) ∧
    (∀ (s : State) (op : HostOp) (rest : List HostOp), s.hostOps = op :: rest →
      ∃ t, step s = .next t ∧ perform op { s with hostOps := rest } = .next t ∧ t.hostOps = rest) ∧
    ∀ (s : State) (k : Nat), s.hostOps = presentedOps p →
      ∃ t, Sys2Proof.core.run k s = .next t ∧ t.hostOps = (presentedOps p).drop k

/-! ### Reset and invariants. -/

/-- The state after power-on of a core with any FONT: V = 0, I = 0, PC = 0x200, SP = 0, timers 0, display clear, FONT loaded, other
memory 0, keys released and no fault (D22 to D26 where the document is silent, the spec's own choices). State.reset is that of the
default FONT (log entry 2). -/
def Obligations.PowerOnState : Prop :=
  State.reset = State.powerOn Font.standard ∧
  ∀ (font : Font) (s : State), s = State.powerOn font →
    (∀ r : Reg, s.getV r = 0) ∧ s.i = 0 ∧ s.pc = 0x200 ∧ s.sp = 0 ∧ (∀ k : Fin 16, s.stack[k.val] = 0) ∧ s.dt = 0 ∧ s.st = 0 ∧
    (∀ px py, Display.pixel s.disp px py = false) ∧ (∀ k : Reg, s.key[k.val] = false) ∧
    (∀ (a : Nat) (h : a < 80), s.byteAt a = font[a]) ∧ (∀ a, 80 ≤ a → s.byteAt a = 0) ∧
    s.halted = false ∧ s.faultCode = 0 ∧ s.faultAddr = 0 ∧ s.faultOp = 0 ∧ s.faultOpValid = false

/-- The invariant holds after power-on, whatever FONT is. The canonical form of memory is the model's choice (DESIGN CHOICE, log
entry 7); the stack and the fault state after power-on are D24 and D26, the spec's own choices (log entry 1). -/
def Obligations.InvariantHoldsAtReset : Prop := (∀ font : Font, (State.powerOn font).Inv) ∧ State.reset.Inv

/-- Every step keeps the invariant, whatever operations the host has issued: memory stays canonical, nothing below 0x200 differs from the
power-on contents, PC is at most 0x10FE and stack entries at most 0x0FFE, and the fault state is consistent; and no step changes FONT.
The canonical form of memory is the model's choice (DESIGN CHOICE, log entry 7), as is FONT in the state (log entry 2); the reserved
area is D13, the PC bound D3, the stack bound D6, the fault state D26, D27, D40 and D46, the spec's own choices (log entry 1). -/
def Obligations.EveryStepKeepsTheInvariant : Prop := ∀ s t : State, s.Inv → step s = .next t → t.Inv ∧ t.font = s.font

/-- Nothing leaves the halt but RESET: a halted core stays halted over any run whose operations hold no RESET (D26). -/
def Obligations.OnlyResetLeavesTheHalt : Prop :=
  ∀ (n : Nat) (s t : State), s.halted = true → HostOp.reset ∉ s.hostOps → Sys2Proof.core.run n s = .next t →
    t.halted = true ∧ t.faultCode = s.faultCode ∧ t.faultAddr = s.faultAddr ∧ t.faultOp = s.faultOp ∧
    t.faultOpValid = s.faultOpValid

/-- The result of a STEP that fetched an instruction: its opcode and address; a fatal fault's code where it halted, AWAITING_INPUT where it
waits, else OK; whether a pixel changed; whether the sound timer fell to 0; and FAULT_ADDR after the STEP. The fields are D18, D27, D28,
D29 and D40, the spec's own choices. It is said of a queued STEP and of that of an empty queue (log entry 4). -/
def Obligations.StepResultReportsTheInstruction : Prop :=
  ∀ (s t : State) (i : Instr), NextIsStep s → s.halted = false → fetch s.font s.mem s.pc.toNat = .ok (encode i) → step s = .next t →
    (stepResult s t).opcode = encode i ∧ (stepResult s t).opcodeValid = true ∧ (stepResult s t).pc = s.pc ∧
    (stepResult s t).faultAddr = t.faultAddr ∧
    (t.halted = true → (stepResult s t).status = t.faultCode ∧
      (t.faultCode = 3 ∨ t.faultCode = 4 ∨ t.faultCode = 5)) ∧
    (t.halted = false → Waits i s → (stepResult s t).status = 1) ∧
    (t.halted = false → ¬ Waits i s → (stepResult s t).status = 0) ∧
    ((stepResult s t).displayChanged = true ↔ ∃ px py, Display.pixel t.disp px py ≠ Display.pixel s.disp px py) ∧
    ((stepResult s t).toneEnd = true ↔ s.st ≠ 0 ∧ t.st = 0)
end

