-- ==== Sys2Proof/Laws/Decode.lean ====
section
/-! SUPPORT. The fields of an opcode as numbers, the fields of an encoding, and an opcode's two bytes. -/

namespace Sys2Proof

/-! ### Fields as quotients and remainders. -/

theorem describe_family (op : Word) : (describe op).family.toNat = op.toNat / 4096 := by
  simp [describe, Nat.shiftRight_eq_div_pow]; omega

theorem describe_x (op : Word) : (describe op).x.val = op.toNat / 256 % 16 := by
  simp [describe, Nat.shiftRight_eq_div_pow]

theorem describe_y (op : Word) : (describe op).y.val = op.toNat / 16 % 16 := by
  simp [describe, Nat.shiftRight_eq_div_pow]

theorem describe_n (op : Word) : (describe op).n.toNat = op.toNat % 16 := by
  simp [describe]

theorem describe_nn (op : Word) : (describe op).nn.toNat = op.toNat % 256 := by
  simp [describe]

theorem describe_nnn (op : Word) : (describe op).nnn.toNat = op.toNat % 4096 := by
  simp [describe]

/-- A field is a value exactly when their numbers are equal. -/
theorem describe_family_eq (op : Word) (f : BitVec 4) : (describe op).family = f ↔ op.toNat / 4096 = f.toNat := by
  rw [← describe_family]; exact BitVec.toNat_eq

theorem describe_n_eq (op : Word) (n : BitVec 4) : (describe op).n = n ↔ op.toNat % 16 = n.toNat := by
  rw [← describe_n]; exact BitVec.toNat_eq

theorem describe_nn_eq (op : Word) (nn : Byte) : (describe op).nn = nn ↔ op.toNat % 256 = nn.toNat := by
  rw [← describe_nn]; exact BitVec.toNat_eq

theorem describe_nnn_eq (op : Word) (nnn : BitVec 12) : (describe op).nnn = nnn ↔ op.toNat % 4096 = nnn.toNat := by
  rw [← describe_nnn]; exact BitVec.toNat_eq

/-! ### The numbers of the encodings. -/

theorem encodeNNN_toNat (f : Nat) (hf : f < 16) (nnn : BitVec 12) :
    (encodeNNN f nnn).toNat = f * 4096 + nnn.toNat := by
  simp only [encodeNNN, BitVec.toNat_ofNat]; omega

theorem encodeXNN_toNat (f : Nat) (hf : f < 16) (x : Reg) (nn : Byte) :
    (encodeXNN f x nn).toNat = f * 4096 + x.val * 256 + nn.toNat := by
  simp only [encodeXNN, BitVec.toNat_ofNat]; omega

theorem encodeXYN_toNat (f : Nat) (hf : f < 16) (x y : Reg) (n : BitVec 4) :
    (encodeXYN f x y n).toNat = f * 4096 + x.val * 256 + y.val * 16 + n.toNat := by
  simp only [encodeXYN, BitVec.toNat_ofNat]; omega

/-- The descriptor of an encoding of the format NNN (R72). -/
theorem describe_encodeNNN (f : Nat) (hf : f < 16) (nnn : BitVec 12) :
    (describe (encodeNNN f nnn)).family = BitVec.ofNat 4 f ∧ (describe (encodeNNN f nnn)).nnn = nnn := by
  rw [describe_family_eq, describe_nnn_eq, encodeNNN_toNat f hf, BitVec.toNat_ofNat]
  omega

/-- The descriptor of an encoding of the formats XNN and XF (R72). -/
theorem describe_encodeXNN (f : Nat) (hf : f < 16) (x : Reg) (nn : Byte) :
    (describe (encodeXNN f x nn)).family = BitVec.ofNat 4 f ∧ (describe (encodeXNN f x nn)).x = x ∧
      (describe (encodeXNN f x nn)).nn = nn := by
  rw [describe_family_eq, describe_nn_eq, Fin.ext_iff, describe_x, encodeXNN_toNat f hf, BitVec.toNat_ofNat]
  omega

/-- The descriptor of an encoding of the formats XYF and XYN (R72). -/
theorem describe_encodeXYN (f : Nat) (hf : f < 16) (x y : Reg) (n : BitVec 4) :
    (describe (encodeXYN f x y n)).family = BitVec.ofNat 4 f ∧ (describe (encodeXYN f x y n)).x = x ∧
      (describe (encodeXYN f x y n)).y = y ∧ (describe (encodeXYN f x y n)).n = n := by
  rw [describe_family_eq, describe_n_eq, Fin.ext_iff, Fin.ext_iff, describe_x, describe_y, encodeXYN_toNat f hf,
    BitVec.toNat_ofNat]
  omega

/-! ### The first level of the decoder, by the number of the family (R75). -/

/-- The decoder at a family it tests. -/
theorem decode_at_family (op : Word) (f : BitVec 4) (h : op.toNat / 4096 = f.toNat) :
    decode op = decodeDescriptor op { describe op with family := f } := by
  rw [← (describe_family_eq op f).mpr h]; rfl

theorem decode_family0 (op : Word) (h : op.toNat / 4096 = 0) :
    decode op = decode0 op (describe op) :=
  decode_at_family op 0#4 h

theorem decode_family1 (op : Word) (h : op.toNat / 4096 = 1) :
    decode op = .ok (.jp (describe op).nnn) :=
  decode_at_family op 1#4 h

theorem decode_family2 (op : Word) (h : op.toNat / 4096 = 2) :
    decode op = .ok (.call (describe op).nnn) :=
  decode_at_family op 2#4 h

theorem decode_family3 (op : Word) (h : op.toNat / 4096 = 3) :
    decode op = .ok (.seImm (describe op).x (describe op).nn) :=
  decode_at_family op 3#4 h

theorem decode_family4 (op : Word) (h : op.toNat / 4096 = 4) :
    decode op = .ok (.sneImm (describe op).x (describe op).nn) :=
  decode_at_family op 4#4 h

theorem decode_family5 (op : Word) (h : op.toNat / 4096 = 5) :
    decode op = if (describe op).n = 0x0#4 then .ok (.seReg (describe op).x (describe op).y) else .error (.unknownOpcode op) :=
  decode_at_family op 5#4 h

theorem decode_family6 (op : Word) (h : op.toNat / 4096 = 6) :
    decode op = .ok (.ldImm (describe op).x (describe op).nn) :=
  decode_at_family op 6#4 h

theorem decode_family7 (op : Word) (h : op.toNat / 4096 = 7) :
    decode op = .ok (.addImm (describe op).x (describe op).nn) :=
  decode_at_family op 7#4 h

theorem decode_family8 (op : Word) (h : op.toNat / 4096 = 8) :
    decode op = decode8 op (describe op) :=
  decode_at_family op 8#4 h

theorem decode_family9 (op : Word) (h : op.toNat / 4096 = 9) :
    decode op = if (describe op).n = 0x0#4 then .ok (.sneReg (describe op).x (describe op).y) else .error (.unknownOpcode op) :=
  decode_at_family op 9#4 h

theorem decode_familyA (op : Word) (h : op.toNat / 4096 = 10) :
    decode op = .ok (.ldI (describe op).nnn) :=
  decode_at_family op 10#4 h

theorem decode_familyB (op : Word) (h : op.toNat / 4096 = 11) :
    decode op = .ok (.jpV0 (describe op).nnn) :=
  decode_at_family op 11#4 h

theorem decode_familyC (op : Word) (h : op.toNat / 4096 = 12) :
    decode op = .ok (.rnd (describe op).x (describe op).nn) :=
  decode_at_family op 12#4 h

theorem decode_familyD (op : Word) (h : op.toNat / 4096 = 13) :
    decode op = .ok (.drw (describe op).x (describe op).y (describe op).n) :=
  decode_at_family op 13#4 h

theorem decode_familyE (op : Word) (h : op.toNat / 4096 = 14) :
    decode op = decodeE op (describe op) :=
  decode_at_family op 14#4 h

theorem decode_familyF (op : Word) (h : op.toNat / 4096 = 15) :
    decode op = decodeF op (describe op) :=
  decode_at_family op 15#4 h

/-! ### The second level, each said once (R76). -/

/-- What decode0 can answer: unknown for no value of the key, or the instruction of its key (R76). -/
theorem decode0_cases (op : Word) (d : Descriptor) :
    (decode0 op d = .error (.unknownOpcode op) ∧ d.nnn ∉ [0x0E0#12, 0x0EE#12]) ∨
    (d.nnn, decode0 op d) ∈ [
      (0x0E0#12, Except.ok (Instr.cls)),
      (0x0EE#12, .ok (.ret))] := by
  unfold decode0
  repeat' split
  all_goals simp_all

/-- What decode8 can answer: unknown for no value of the key, or the instruction of its key (R76). -/
theorem decode8_cases (op : Word) (d : Descriptor) :
    (decode8 op d = .error (.unknownOpcode op) ∧ d.n ∉ [0x0#4, 0x1#4, 0x2#4, 0x3#4, 0x4#4, 0x5#4, 0x6#4, 0x7#4, 0xE#4]) ∨
    (d.n, decode8 op d) ∈ [
      (0x0#4, Except.ok (Instr.ldReg d.x d.y)),
      (0x1#4, .ok (.orReg d.x d.y)),
      (0x2#4, .ok (.andReg d.x d.y)),
      (0x3#4, .ok (.xorReg d.x d.y)),
      (0x4#4, .ok (.addReg d.x d.y)),
      (0x5#4, .ok (.subReg d.x d.y)),
      (0x6#4, .ok (.shr d.x d.y)),
      (0x7#4, .ok (.subnReg d.x d.y)),
      (0xE#4, .ok (.shl d.x d.y))] := by
  unfold decode8
  repeat' split
  all_goals simp_all

/-- What decodeE can answer: unknown for no value of the key, or the instruction of its key (R76). -/
theorem decodeE_cases (op : Word) (d : Descriptor) :
    (decodeE op d = .error (.unknownOpcode op) ∧ d.nn ∉ [0x9E#8, 0xA1#8]) ∨
    (d.nn, decodeE op d) ∈ [
      (0x9E#8, Except.ok (Instr.skp d.x)),
      (0xA1#8, .ok (.sknp d.x))] := by
  unfold decodeE
  repeat' split
  all_goals simp_all

/-- What decodeF can answer: unknown for no value of the key, or the instruction of its key (R76). -/
theorem decodeF_cases (op : Word) (d : Descriptor) :
    (decodeF op d = .error (.unknownOpcode op) ∧ d.nn ∉ [0x07#8, 0x0A#8, 0x15#8, 0x18#8, 0x1E#8, 0x29#8, 0x33#8, 0x55#8, 0x65#8]) ∨
    (d.nn, decodeF op d) ∈ [
      (0x07#8, Except.ok (Instr.ldVxDT d.x)),
      (0x0A#8, .ok (.ldVxK d.x)),
      (0x15#8, .ok (.ldDTVx d.x)),
      (0x18#8, .ok (.ldSTVx d.x)),
      (0x1E#8, .ok (.addI d.x)),
      (0x29#8, .ok (.ldF d.x)),
      (0x33#8, .ok (.ldB d.x)),
      (0x55#8, .ok (.storeRegs d.x)),
      (0x65#8, .ok (.loadRegs d.x))] := by
  unfold decodeF
  repeat' split
  all_goals simp_all

/-! ### Masks as remainders and quotients. -/

theorem mask_F000 (op : Word) : (op &&& 0xF000#16).toNat = op.toNat / 4096 * 4096 := by
  have h : op &&& 0xF000#16 = (op >>> 12) <<< 12 := by
    ext j hj
    simp only [BitVec.getElem_and, BitVec.getElem_shiftLeft, BitVec.getElem_ushiftRight]
    interval_cases j <;> simp [BitVec.getLsbD_eq_getElem]
  rw [h]
  simp only [BitVec.toNat_shiftLeft, BitVec.toNat_ushiftRight, Nat.shiftLeft_eq, Nat.shiftRight_eq_div_pow]
  omega

theorem mask_low (op : Word) (k : Nat) : (op &&& BitVec.ofNat 16 (2 ^ k - 1)).toNat = op.toNat % 2 ^ k := by
  by_cases hk : k ≤ 16
  · have h1 : 2 ^ k ≤ 2 ^ 16 := Nat.pow_le_pow_right (by omega) hk
    rw [BitVec.toNat_and, BitVec.toNat_ofNat, Nat.mod_eq_of_lt (a := 2 ^ k - 1) (by omega)]
    exact Nat.and_two_pow_sub_one_eq_mod _ _
  · have h1 : 2 ^ 17 ≤ 2 ^ k := Nat.pow_le_pow_right (by omega) (by omega)
    have h2 : BitVec.ofNat 16 (2 ^ k - 1) = BitVec.allOnes 16 := by
      apply BitVec.eq_of_toNat_eq
      have : (2 ^ 16 : Nat) ∣ 2 ^ k := Nat.pow_dvd_pow 2 (by omega)
      simp only [BitVec.toNat_ofNat, BitVec.toNat_allOnes]
      omega
    rw [h2, BitVec.and_allOnes, Nat.mod_eq_of_lt]
    have := op.isLt
    omega

/-- `op & 0xF00F`: the family and the low nibble. -/
theorem mask_F00F (op : Word) : (op &&& 0xF00F#16).toNat = op.toNat / 4096 * 4096 + op.toNat % 16 := by
  have h : op &&& 0xF00F#16 = (op &&& 0xF000#16) ||| (op &&& 0x000F#16) := by
    rw [← BitVec.and_or_distrib_left]; rfl
  have h1 := mask_low op 4
  have h2 := mask_F000 op
  have h3 : (op &&& 0xF000#16) &&& (op &&& 0x000F#16) = 0#16 := by
    rw [BitVec.and_assoc, ← BitVec.and_assoc 0xF000#16, BitVec.and_comm 0xF000#16 op, BitVec.and_assoc,
      show (0xF000#16 &&& 0x000F#16) = 0#16 from rfl]; simp
  rw [h, ← BitVec.add_eq_or_of_and_eq_zero _ _ h3, BitVec.toNat_add, h2]
  simp only [show BitVec.ofNat 16 (2 ^ 4 - 1) = 0x000F#16 from rfl] at h1
  rw [h1]
  omega

/-- `op & 0xF0FF`: the family and the low byte. -/
theorem mask_F0FF (op : Word) : (op &&& 0xF0FF#16).toNat = op.toNat / 4096 * 4096 + op.toNat % 256 := by
  have h : op &&& 0xF0FF#16 = (op &&& 0xF000#16) ||| (op &&& 0x00FF#16) := by
    rw [← BitVec.and_or_distrib_left]; rfl
  have h1 := mask_low op 8
  have h2 := mask_F000 op
  have h3 : (op &&& 0xF000#16) &&& (op &&& 0x00FF#16) = 0#16 := by
    rw [BitVec.and_assoc, ← BitVec.and_assoc 0xF000#16, BitVec.and_comm 0xF000#16 op, BitVec.and_assoc,
      show (0xF000#16 &&& 0x00FF#16) = 0#16 from rfl]; simp
  rw [h, ← BitVec.add_eq_or_of_and_eq_zero _ _ h3, BitVec.toNat_add, h2]
  simp only [show BitVec.ofNat 16 (2 ^ 8 - 1) = 0x00FF#16 from rfl] at h1
  rw [h1]
  omega

/-! ### Bytes. -/

theorem wordOfBytes_toNat (hi lo : Byte) : (wordOfBytes hi lo).toNat = hi.toNat * 256 + lo.toNat := by
  have h : wordOfBytes hi lo = BitVec.ofNat 16 (hi.toNat * 256 + lo.toNat) := by
    apply BitVec.eq_of_toNat_eq
    have h1 : hi.toNat <<< 8 ||| lo.toNat = hi.toNat <<< 8 + lo.toNat := by
      rw [Nat.shiftLeft_add_eq_or_of_lt lo.isLt]
    rw [wordOfBytes, BitVec.toNat_append, h1, Nat.shiftLeft_eq, BitVec.toNat_ofNat]
    omega
  rw [h, BitVec.toNat_ofNat]; omega

/-- The bytes of an opcode, high byte first, are the opcode (R59). -/
theorem wordOfBytes_hi_lo (w : Word) : wordOfBytes (hiByte w) (loByte w) = w := by
  apply BitVec.eq_of_toNat_eq
  rw [wordOfBytes_toNat]
  simp only [hiByte, loByte, BitVec.extractLsb'_toNat, Nat.shiftRight_eq_div_pow]
  omega

end Sys2Proof
end

