-- ==== Sys2Proof/Laws/Display.lean ====
section
/-! SUPPORT. Pixels: two displays are equal when their pixels are, what inverting a pixel does, and what drawing a sprite does. -/

namespace Sys2Proof.Machine

/-- Two displays with the same pixels are equal (R30). -/
theorem Display.ext_pixel {d e : Display} (h : ∀ px py, Display.pixel d px py = Display.pixel e px py) : d = e := by
  apply Vector.ext
  intro py hy
  apply BitVec.eq_of_getLsbD_eq
  intro px hx
  exact h ⟨px, hx⟩ ⟨py, hy⟩

@[simp] theorem Display.pixel_blank (px : Fin 64) (py : Fin 32) : Display.pixel Display.blank px py = false := by
  simp [Display.pixel, Display.blank]

/-- Inverting a pixel inverts that one and no other. -/
theorem Display.pixel_toggle (d : Display) (qx px : Fin 64) (qy py : Fin 32) :
    Display.pixel (togglePixel d qx qy).1 px py =
      (Display.pixel d px py != decide (px = qx ∧ py = qy)) := by
  simp only [Display.pixel, togglePixel, Vector.getElem_set, Fin.ext_iff]
  by_cases hy : qy.val = py.val
  · have hx := px.isLt
    by_cases h : px.val = qx.val
    · simp [hy, h]
    · have h2 : ¬ (qx.val ≤ px.val ∧ px.val - qx.val = 0) := by omega
      by_cases h3 : px.val < qx.val
      · simp [hy, h, h3]
      · have h4 : px.val - qx.val ≠ 0 := by omega
        simp [hy, h, h3, h4]
  · simp [hy, Ne.symm hy]

@[simp] theorem togglePixel_wasSet (d : Display) (px : Fin 64) (py : Fin 32) :
    (togglePixel d px py).2 = Display.pixel d px py := rfl

/-- A pixel is in column col of a sprite from column x0, counted with wrapping modulo 64 (D15). -/
theorem column_eq (x0 col : Nat) (h : col < 8) (px : Fin 64) : px = Fin.ofNat 64 (x0 + col) ↔ (px.val + 64 - x0 % 64) % 64 = col := by
  have := px.isLt
  rw [Fin.ext_iff]; simp only [Fin.ofNat]; omega
/-- The same for rows, modulo 32. -/
theorem row_eq (y0 r : Nat) (h : r < 32) (py : Fin 32) : py = Fin.ofNat 32 (y0 + r) ↔ (py.val + 32 - y0 % 32) % 32 = r := by
  have := py.isLt
  rw [Fin.ext_iff]; simp only [Fin.ofNat]; omega

/-- The bit that the first n columns of a sprite row, drawn from column x0, hold for a column of the display (R128, D16). -/
def rowBit (x0 : Nat) (row : Byte) (n : Nat) (px : Fin 64) : Bool :=
  decide ((px.val + 64 - x0 % 64) % 64 < n) && row.getLsbD (7 - (px.val + 64 - x0 % 64) % 64)

/-- What n columns of a sprite row do: they invert the pixels of their set bits, and collide where one was set. -/
theorem drawBits_spec (x0 : Nat) (qy : Fin 32) (row : Byte) (acc : Display × Bool) (n : Nat) (hn : n ≤ 8) :
  (∀ px py, Display.pixel ((List.range n).foldl (drawBit x0 qy row) acc).1 px py = (Display.pixel acc.1 px py != (decide (py = qy) && rowBit x0 row n px))) ∧
  (((List.range n).foldl (drawBit x0 qy row) acc).2 = true ↔ acc.2 = true ∨ ∃ px, rowBit x0 row n px = true ∧ Display.pixel acc.1 px qy = true) := by
  induction n with
  | zero => simp [rowBit]
  | succ n ih =>
    obtain ⟨ih1, ih2⟩ := ih (by omega)
    rw [List.range_succ, List.foldl_append]
    simp only [List.foldl_cons, List.foldl_nil]
    generalize (List.range n).foldl (drawBit x0 qy row) acc = a at *
    have hcol := column_eq x0 n (by omega)
    unfold drawBit
    generalize Fin.ofNat 64 (x0 + n) = q at hcol ⊢
    have key : ∀ px, rowBit x0 row (n+1) px = (rowBit x0 row n px || (decide (px = q) && row.getLsbD (7-n))) := by
      intro px
      unfold rowBit
      have := hcol px
      generalize (px.val + 64 - x0 % 64) % 64 = c at this ⊢
      by_cases h : c = n
      · simp [this.mpr h, h]
      · have h2 : ¬ px = q := fun hh => h (this.mp hh)
        have h3 : (c < n + 1) = (c < n) := by simp; omega
        simp only [h2, h3]; simp
    have notn : rowBit x0 row n q = false := by
      unfold rowBit; rw [(hcol q).mp rfl]; simp
    split
    · rename_i hb
      simp only [Display.pixel_toggle, togglePixel_wasSet, hb, Bool.and_true] at key ⊢
      refine ⟨fun px py => ?_, ?_⟩
      · rw [ih1, key]
        by_cases hy : py = qy
        · by_cases hx : px = q
          · subst hx; subst hy; simp [notn]
          · simp [hx, hy]
        · simp [hy]
      · rw [Bool.or_eq_true, ih2, ih1]
        simp only [notn]
        constructor
        · rintro ((h | ⟨px, h1, h2⟩) | h)
          · exact .inl h
          · exact .inr ⟨px, by rw [key, h1]; rfl, h2⟩
          · refine .inr ⟨q, by rw [key]; simp, by simpa using h⟩
        · rintro (h | ⟨px, h1, h2⟩)
          · exact .inl (.inl h)
          · rw [key, Bool.or_eq_true] at h1
            rcases h1 with h1 | h1
            · exact .inl (.inr ⟨px, h1, h2⟩)
            · have := of_decide_eq_true h1; subst this; right; simpa using h2
    · rename_i hb
      simp only [Bool.not_eq_true] at hb
      simp only [hb, Bool.and_false, Bool.or_false] at key
      simp only [key]
      exact ⟨ih1, ih2⟩

/-- The bit that the rows of a sprite, from row number r0 on, hold for a pixel of the display (R128). -/
def rowsBit (x0 y0 : Nat) (r0 : Nat) (rows : List Byte) (px : Fin 64) (py : Fin 32) : Bool :=
  decide (r0 ≤ (py.val + 32 - y0 % 32) % 32) && decide ((py.val + 32 - y0 % 32) % 32 - r0 < rows.length) && rowBit x0 (rows.getD ((py.val + 32 - y0 % 32) % 32 - r0) 0) 8 px

/-- What the rows of a sprite do (R128): a pixel is inverted exactly where they hold a set bit, and there is a collision exactly where
such a pixel was set. -/
theorem drawRows_spec (x0 y0 r0 : Nat) (rows : List Byte) (acc : Display × Bool) (h : r0 + rows.length ≤ 32) :
  (∀ px py, Display.pixel (drawRows x0 y0 r0 rows acc).1 px py = (Display.pixel acc.1 px py != rowsBit x0 y0 r0 rows px py)) ∧
  ((drawRows x0 y0 r0 rows acc).2 = true ↔ acc.2 = true ∨ ∃ px py, rowsBit x0 y0 r0 rows px py = true ∧ Display.pixel acc.1 px py = true) := by
  induction rows generalizing r0 acc with
  | nil => simp [drawRows, rowsBit]
  | cons row rows ih =>
    rw [drawRows]
    simp only [List.length_cons] at h
    obtain ⟨ih1, ih2⟩ := ih (r0+1) (drawRow x0 (Fin.ofNat 32 (y0+r0)) row acc) (by omega)
    obtain ⟨f1, f2⟩ := drawBits_spec x0 (Fin.ofNat 32 (y0+r0)) row acc 8 (by omega)
    have e : (List.range 8).foldl (drawBit x0 (Fin.ofNat 32 (y0+r0)) row) acc = drawRow x0 (Fin.ofNat 32 (y0+r0)) row acc := rfl
    rw [e] at f1 f2
    have hrow := row_eq y0 r0 (by omega)
    generalize Fin.ofNat 32 (y0+r0) = q at *
    have key : ∀ px py, rowsBit x0 y0 r0 (row::rows) px py = (rowsBit x0 y0 (r0+1) rows px py || (decide (py = q) && rowBit x0 row 8 px)) := by
      intro px py
      have := hrow py
      unfold rowsBit
      by_cases hr : (py.val + 32 - y0 % 32) % 32 = r0
      · have h1 := this.mpr hr
        rw [hr, decide_eq_true h1]; simp
      · have h1 : ¬ py = q := fun hh => hr (this.mp hh)
        rw [decide_eq_false h1]
        generalize (py.val + 32 - y0 % 32) % 32 = c at *
        by_cases hq : r0 + 1 ≤ c
        · have h3 : c - r0 = c - (r0+1) + 1 := by omega
          have h4 : r0 ≤ c := by omega
          simp [hq, h4, h3]
        · have : ¬ r0 ≤ c := by omega
          simp [this, hq]
    have nob : ∀ px, rowsBit x0 y0 (r0+1) rows px q = false := by
      intro px
      have h2 := (hrow q).mp rfl
      unfold rowsBit; rw [h2]; simp
    refine ⟨fun px py => ?_, ?_⟩
    · rw [ih1, f1, key]
      by_cases hy : py = q
      · subst hy; simp [nob]
      · simp [hy]
    · rw [ih2, f2]
      constructor
      · rintro ((h | ⟨px, h1, h2⟩) | ⟨px, py, h1, h2⟩)
        · exact .inl h
        · exact .inr ⟨px, _, by rw [key, h1]; simp, h2⟩
        · refine .inr ⟨px, py, by rw [key, h1]; rfl, ?_⟩
          rw [f1] at h2
          have : py ≠ q := by rintro rfl; rw [nob] at h1; cases h1
          simpa [this] using h2
      · rintro (h | ⟨px, py, h1, h2⟩)
        · exact .inl (.inl h)
        · rw [key, Bool.or_eq_true] at h1
          by_cases hy : py = q
          · subst hy
            rcases h1 with h1 | h1
            · rw [nob] at h1; cases h1
            · exact .inl (.inr ⟨px, by simpa using h1, h2⟩)
          · rcases h1 with h1 | h1
            · exact .inr ⟨px, py, h1, by rw [f1]; simpa [hy] using h2⟩
            · simp [hy] at h1

/-- What drawing a sprite does (R128). -/
theorem drawSprite_spec (d : Display) (x0 y0 : Nat) (rows : List Byte) (h : rows.length ≤ 32) :
    (∀ px py, Display.pixel (drawSprite d x0 y0 rows).1 px py = (Display.pixel d px py != rowsBit x0 y0 0 rows px py)) ∧
    ((drawSprite d x0 y0 rows).2 = true ↔ ∃ px py, rowsBit x0 y0 0 rows px py = true ∧ Display.pixel d px py = true) := by
  obtain ⟨h1, h2⟩ := drawRows_spec x0 y0 0 rows (d, false) (by omega)
  exact ⟨h1, by simpa [drawSprite] using h2⟩

end Sys2Proof.Machine
end

