-- ==== Sys2Proof/Laws/Memory.lean ====
section
/-! SUPPORT. The laws of memory: a read after a write, the canonical form, which every operation keeps, and one lemma for each access
primitive that says when it succeeds and with what. -/

namespace Sys2Proof.Machine

variable {font : Font}

theorem Memory.read_cons (font : Font) (c : Host.Cell) (m : Memory) (a : Nat) :
    Memory.read font (c :: m) a = if c.1 = a then c.2 else Memory.read font m a := rfl

theorem Memory.read_erase (font : Font) (m : Memory) (a b : Nat) :
    Memory.read font (Memory.erase m a) b = if b = a then initialByte font a else Memory.read font m b := by
  induction m with
  | nil => by_cases h : b = a <;> simp [Memory.erase, Memory.read, h]
  | cons c m ih =>
    have he : Memory.erase (c :: m) a = if c.1 = a then Memory.erase m a else c :: Memory.erase m a := by
      by_cases h : c.1 = a <;> simp [Memory.erase, h]
    rw [he]
    by_cases h : c.1 = a
    · simp only [if_pos h, ih, Memory.read_cons]
      by_cases hb : b = a
      · simp [hb]
      · simp [hb, h, Ne.symm hb]
    · simp only [if_neg h, Memory.read_cons, ih]
      by_cases hb : b = a
      · simp [hb, h]
      · simp [hb]

theorem Memory.read_insert (font : Font) (m : Memory) (a : Nat) (b : Byte) (hm : ∀ c ∈ m, c.1 ≠ a) (k : Nat) :
    Memory.read font (Memory.insert m a b) k = if k = a then b else Memory.read font m k := by
  induction m with
  | nil =>
    by_cases h : k = a
    · simp [Memory.insert, Memory.read, h]
    · simp [Memory.insert, Memory.read, h, Ne.symm h]
  | cons c m ih =>
    have hc : c.1 ≠ a := hm c (by simp)
    have ih' := ih (fun d hd => hm d (by simp [hd]))
    rw [Memory.insert]
    by_cases hlt : a < c.1
    · simp only [if_pos hlt, Memory.read_cons]
      by_cases hk : k = a
      · simp [hk]
      · simp [hk, Ne.symm hk]
    · simp only [if_neg hlt, Memory.read_cons, ih']
      by_cases hk : k = a
      · simp [hk, hc]
      · simp [hk]

theorem Memory.erase_no_entry (m : Memory) (a : Nat) : ∀ c ∈ Memory.erase m a, c.1 ≠ a := by
  intro c hc
  simpa using (List.mem_filter.mp hc).2

/-- Read after write (R66): the written address reads as the byte written, every other address as before. -/
theorem Memory.read_write (font : Font) (m : Memory) (a : Nat) (b : Byte) (k : Nat) :
    Memory.read font (Memory.write font m a b) k = if k = a then b else Memory.read font m k := by
  unfold Memory.write
  split
  · rename_i h
    rw [Memory.read_erase]; simp [h]
  · rw [Memory.read_insert _ _ _ _ (Memory.erase_no_entry m a), Memory.read_erase]
    by_cases h : k = a <;> simp [h]

theorem Memory.mem_insert {m : Memory} {a : Nat} {b : Byte} {c : Host.Cell} (h : c ∈ Memory.insert m a b) :
    c = (a, b) ∨ c ∈ m := by
  induction m with
  | nil => simpa [Memory.insert] using h
  | cons d m ih =>
    rw [Memory.insert] at h
    split at h
    · simpa [List.mem_cons] using h
    · rcases List.mem_cons.mp h with h | h
      · exact .inr (by simp [h])
      · rcases ih h with h | h
        · exact .inl h
        · exact .inr (by simp [h])

theorem Memory.erase_wf {m : Memory} (a : Nat) (h : Memory.wf font m) : Memory.wf font (Memory.erase m a) :=
  ⟨h.1.filter _, fun c hc => h.2 c (List.mem_filter.mp hc).1⟩

theorem Memory.insert_sorted {m : Memory} {a : Nat} {b : Byte} (hs : m.Pairwise (fun c d => c.1 < d.1))
    (hm : ∀ c ∈ m, c.1 ≠ a) : (Memory.insert m a b).Pairwise (fun c d => c.1 < d.1) := by
  induction m with
  | nil => simp [Memory.insert]
  | cons c m ih =>
    have hc : c.1 ≠ a := hm c (by simp)
    obtain ⟨h1, h2⟩ := List.pairwise_cons.mp hs
    rw [Memory.insert]
    split
    · rename_i hlt
      refine List.pairwise_cons.mpr ⟨fun d hd => ?_, hs⟩
      rcases List.mem_cons.mp hd with hd | hd
      · simpa [hd] using hlt
      · exact Nat.lt_trans hlt (h1 d hd)
    · rename_i hlt
      refine List.pairwise_cons.mpr ⟨fun d hd => ?_, ih h2 (fun d hd => hm d (by simp [hd]))⟩
      rcases Memory.mem_insert hd with hd | hd
      · subst hd; simp only; omega
      · exact h1 d hd

/-- A write keeps the canonical form. -/
theorem Memory.write_wf {m : Memory} {a : Nat} (b : Byte) (ha : a < Config.memSize) (h : Memory.wf font m) :
    Memory.wf font (Memory.write font m a b) := by
  unfold Memory.write
  split
  · exact Memory.erase_wf a h
  · rename_i hb
    have he := Memory.erase_wf a h
    refine ⟨Memory.insert_sorted he.1 (Memory.erase_no_entry m a), fun c hc => ?_⟩
    rcases Memory.mem_insert hc with hc | hc
    · subst hc; exact ⟨ha, hb⟩
    · exact he.2 c hc

/-- Writing bytes at ascending addresses: each of them reads as written, every other address as before. -/
theorem Memory.read_writeAll (font : Font) (m : Memory) (a : Nat) (bs : List Byte) (k : Nat) :
    Memory.read font (Memory.writeAll font m a bs) k =
      if h : a ≤ k ∧ k - a < bs.length then bs[k - a]'h.2 else Memory.read font m k := by
  induction bs generalizing m a with
  | nil => simp [Memory.writeAll]
  | cons b bs ih =>
    rw [Memory.writeAll, ih]
    by_cases h1 : a + 1 ≤ k ∧ k - (a + 1) < bs.length
    · have h2 : a ≤ k ∧ k - a < (b :: bs).length := ⟨by omega, by simp; omega⟩
      have h3 : k - a = k - (a + 1) + 1 := by omega
      simp only [dif_pos h1, dif_pos h2]
      simp [h3]
    · simp only [dif_neg h1, Memory.read_write]
      by_cases h4 : k = a
      · subst h4; simp
      · have h5 : ¬ (a ≤ k ∧ k - a < (b :: bs).length) := by simp; simp at h1; omega
        rw [if_neg h4, dif_neg h5]

theorem Memory.writeAll_wf {m : Memory} {a : Nat} {bs : List Byte} (hb : a + bs.length ≤ Config.memSize) (h : Memory.wf font m) :
    Memory.wf font (Memory.writeAll font m a bs) := by
  induction bs generalizing m a with
  | nil => exact h
  | cons b bs ih =>
    simp only [List.length_cons] at hb
    exact ih (by omega) (Memory.write_wf b (by simp only [Config.memSize] at hb ⊢; omega) h)

theorem Memory.read_nil (font : Font) (a : Nat) : Memory.read font [] a = initialByte font a := rfl

theorem initialByte_font (font : Font) (a : Nat) (h : a < 80) : initialByte font a = font[a] := by
  simp [initialByte, Config.fontBase, Config.fontSize, h]

theorem initialByte_zero (font : Font) (a : Nat) (h : 80 ≤ a) : initialByte font a = 0 := by
  simp [initialByte, Config.fontBase, Config.fontSize, Nat.not_lt.mpr h]

/-! ### The access primitives. -/

/-- MemRead (R56): it answers the byte exactly below 0x1000. -/
theorem memRead_ok {m : Memory} {a : Nat} {b : Byte} : memRead font m a = .ok b ↔ a < 0x1000 ∧ b = Memory.read font m a := by
  unfold memRead Config.memSize
  split
  · simp; omega
  · simp only [Except.ok.injEq]; constructor
    · intro h; exact ⟨by omega, h.symm⟩
    · intro h; exact h.2.symm

theorem memRead_error {m : Memory} {a : Nat} {f : FatalFault} :
    memRead font m a = .error f ↔ 0x1000 ≤ a ∧ f = .outOfRange a := by
  unfold memRead Config.memSize
  split
  · simp only [Except.error.injEq]; exact ⟨fun h => ⟨by omega, h.symm⟩, fun h => h.2.symm⟩
  · simp; omega

/-- MemWrite (R57): it writes exactly at 0x200 to 0xFFF. -/
theorem memWrite_ok {m m' : Memory} {a : Nat} {b : Byte} :
    memWrite font m a b = .ok m' ↔ 0x200 ≤ a ∧ a < 0x1000 ∧ m' = Memory.write font m a b := by
  unfold memWrite Config.memSize Config.progBase
  split
  · simp; omega
  · split
    · simp; omega
    · simp only [Except.ok.injEq]
      exact ⟨fun h => ⟨by omega, by omega, h.symm⟩, fun h => h.2.2.symm⟩

theorem memWrite_error {m : Memory} {a : Nat} {b : Byte} {f : FatalFault} :
    memWrite font m a b = .error f ↔ (a < 0x200 ∨ 0x1000 ≤ a) ∧ f = .outOfRange a := by
  unfold memWrite Config.memSize Config.progBase
  split
  · simp only [Except.error.injEq]; exact ⟨fun h => ⟨by omega, h.symm⟩, fun h => h.2.symm⟩
  · split
    · simp only [Except.error.injEq]; exact ⟨fun h => ⟨by omega, h.symm⟩, fun h => h.2.symm⟩
    · simp; omega

/-- Ascending reads that all lie below 0x1000. -/
theorem readBytes_ok (font : Font) (m : Memory) (a n : Nat) (h : n = 0 ∨ a + n ≤ 0x1000) :
    readBytes font m a n = .ok ((List.range n).map (fun k => Memory.read font m (a + k))) := by
  induction n generalizing a with
  | zero => rfl
  | succ n ih =>
    have h1 : memRead font m a = .ok (Memory.read font m a) := memRead_ok.mpr ⟨by omega, rfl⟩
    have h2 := ih (a + 1) (by omega)
    simp only [readBytes, h1, h2, List.range_succ_eq_map, List.map_cons, List.map_map]
    simp [Function.comp_def, Nat.add_assoc, Nat.add_comm 1]

/-- Ascending reads of which one does not lie below 0x1000: the first such address is raised (R61). -/
theorem readBytes_error (font : Font) (m : Memory) (a n : Nat) (hn : n ≠ 0) (h : 0x1000 < a + n) :
    readBytes font m a n = .error (.outOfRange (max a 0x1000)) := by
  induction n generalizing a with
  | zero => exact absurd rfl hn
  | succ n ih =>
    by_cases ha : 0x1000 ≤ a
    · have h1 : memRead font m a = .error (.outOfRange a) := memRead_error.mpr ⟨ha, rfl⟩
      simp only [readBytes, h1, Nat.max_eq_left ha]
    · have h1 : memRead font m a = .ok (Memory.read font m a) := memRead_ok.mpr ⟨by omega, rfl⟩
      have h2 := ih (a + 1) (by omega) (by omega)
      have h3 : max (a + 1) 0x1000 = max a 0x1000 := by omega
      simp only [readBytes, h1, h2, h3]

/-- Ascending stores that all lie in 0x200 to 0xFFF. -/
theorem writeBytes_ok (font : Font) (m : Memory) (a : Nat) (bs : List Byte) (h1 : 0x200 ≤ a) (h2 : a + bs.length ≤ 0x1000) :
    writeBytes font m a bs = .ok (Memory.writeAll font m a bs) := by
  induction bs generalizing m a with
  | nil => rfl
  | cons b bs ih =>
    simp only [List.length_cons] at h2
    have hw : memWrite font m a b = .ok (Memory.write font m a b) := memWrite_ok.mpr ⟨h1, by omega, rfl⟩
    simp only [writeBytes, hw, Memory.writeAll]
    exact ih _ _ (by omega) (by omega)

/-- Ascending stores of which one does not lie in 0x200 to 0xFFF: the first such address is raised (R61). -/
theorem writeBytes_error (font : Font) (m : Memory) (a : Nat) (bs : List Byte) (hn : bs ≠ []) (h : a < 0x200 ∨ 0x1000 < a + bs.length) :
    writeBytes font m a bs = .error (.outOfRange (if a < 0x200 then a else max a 0x1000)) := by
  induction bs generalizing m a with
  | nil => exact absurd rfl hn
  | cons b bs ih =>
    simp only [List.length_cons] at h
    by_cases ha : a < 0x200 ∨ 0x1000 ≤ a
    · have h1 : memWrite font m a b = .error (.outOfRange a) := memWrite_error.mpr ⟨ha, rfl⟩
      have h2 : (if a < 0x200 then a else max a 0x1000) = a := by split <;> omega
      simp only [writeBytes, h1, h2]
    · have h1 : memWrite font m a b = .ok (Memory.write font m a b) := memWrite_ok.mpr ⟨by omega, by omega, rfl⟩
      have hbs : bs ≠ [] := by rintro rfl; simp at h; omega
      have h2 := ih (Memory.write font m a b) (a + 1) hbs (by omega)
      have h3 : (if a + 1 < 0x200 then a + 1 else max (a + 1) 0x1000) = if a < 0x200 then a else max a 0x1000 := by
        split <;> split <;> omega
      simp only [writeBytes, h1, h2, h3]

/-- What stores that succeed have done, whatever the addresses. -/
theorem writeBytes_eq_ok {m m' : Memory} {a : Nat} {bs : List Byte} (h : writeBytes font m a bs = .ok m') :
    m' = Memory.writeAll font m a bs ∧ (bs = [] ∨ 0x200 ≤ a ∧ a + bs.length ≤ 0x1000) := by
  by_cases hn : bs = []
  · subst hn
    simp only [writeBytes, Except.ok.injEq] at h
    exact ⟨h.symm, .inl rfl⟩
  · by_cases hr : a < 0x200 ∨ 0x1000 < a + bs.length
    · rw [writeBytes_error font m a bs hn hr] at h; cases h
    · rw [writeBytes_ok font m a bs (by omega) (by omega), Except.ok.injEq] at h
      exact ⟨h.symm, .inr ⟨by omega, by omega⟩⟩

/-- Fetch (R58): it succeeds exactly at 0xFFE and below. -/
theorem fetch_ok (font : Font) (m : Memory) (a : Nat) (h : a ≤ 0xFFE) :
    fetch font m a = .ok (wordOfBytes (Memory.read font m a) (Memory.read font m (a + 1))) := by
  have h1 : memRead font m a = .ok (Memory.read font m a) := memRead_ok.mpr ⟨by omega, rfl⟩
  have h2 : memRead font m (a + 1) = .ok (Memory.read font m (a + 1)) := memRead_ok.mpr ⟨by omega, rfl⟩
  simp only [fetch, h1, h2]

theorem fetch_error (font : Font) (m : Memory) (a : Nat) (h : 0xFFF ≤ a) : fetch font m a = .error (.outOfRange (max a 0x1000)) := by
  by_cases ha : 0x1000 ≤ a
  · have h1 : memRead font m a = .error (.outOfRange a) := memRead_error.mpr ⟨ha, rfl⟩
    simp only [fetch, h1, Nat.max_eq_left ha]
  · have h1 : memRead font m a = .ok (Memory.read font m a) := memRead_ok.mpr ⟨by omega, rfl⟩
    have h2 : memRead font m (a + 1) = .error (.outOfRange (a + 1)) := memRead_error.mpr ⟨by omega, rfl⟩
    have h3 : max a 0x1000 = a + 1 := by omega
    simp only [fetch, h1, h2, h3]

/-- A fetch that succeeds was at 0xFFE or below. -/
theorem fetch_eq_ok {m : Memory} {a : Nat} {op : Word} (h : fetch font m a = .ok op) : a ≤ 0xFFE := by
  by_contra hc
  rw [fetch_error font m a (by omega)] at h
  cases h

end Sys2Proof.Machine
end

