-- ==== Sys2Proof/Laws/State.lean ====
section
/-! SUPPORT. One lemma per field per update of the state, so that no proof unfolds a record update. -/

namespace Sys2Proof.Machine

variable (s : State)

/-- A byte of a state's memory, as the laws of memory speak of it. -/
@[simp] theorem State.byteAt_def (a : Nat) : s.byteAt a = Memory.read s.font s.mem a := rfl

/-! ### setV -/

@[simp] theorem State.setV_v (x : Reg) (b : Byte) : (s.setV x b).v = s.v.set x.val b := rfl
@[simp] theorem State.setV_i (x : Reg) (b : Byte) : (s.setV x b).i = s.i := rfl
@[simp] theorem State.setV_pc (x : Reg) (b : Byte) : (s.setV x b).pc = s.pc := rfl
@[simp] theorem State.setV_sp (x : Reg) (b : Byte) : (s.setV x b).sp = s.sp := rfl
@[simp] theorem State.setV_stack (x : Reg) (b : Byte) : (s.setV x b).stack = s.stack := rfl
@[simp] theorem State.setV_dt (x : Reg) (b : Byte) : (s.setV x b).dt = s.dt := rfl
@[simp] theorem State.setV_st (x : Reg) (b : Byte) : (s.setV x b).st = s.st := rfl
@[simp] theorem State.setV_mem (x : Reg) (b : Byte) : (s.setV x b).mem = s.mem := rfl
@[simp] theorem State.setV_disp (x : Reg) (b : Byte) : (s.setV x b).disp = s.disp := rfl
@[simp] theorem State.setV_key (x : Reg) (b : Byte) : (s.setV x b).key = s.key := rfl
@[simp] theorem State.setV_halted (x : Reg) (b : Byte) : (s.setV x b).halted = s.halted := rfl
@[simp] theorem State.setV_faultCode (x : Reg) (b : Byte) : (s.setV x b).faultCode = s.faultCode := rfl
@[simp] theorem State.setV_faultAddr (x : Reg) (b : Byte) : (s.setV x b).faultAddr = s.faultAddr := rfl
@[simp] theorem State.setV_faultOp (x : Reg) (b : Byte) : (s.setV x b).faultOp = s.faultOp := rfl
@[simp] theorem State.setV_faultOpValid (x : Reg) (b : Byte) : (s.setV x b).faultOpValid = s.faultOpValid := rfl
@[simp] theorem State.setV_rnd (x : Reg) (b : Byte) : (s.setV x b).rnd = s.rnd := rfl
@[simp] theorem State.setV_rndCount (x : Reg) (b : Byte) : (s.setV x b).rndCount = s.rndCount := rfl
@[simp] theorem State.setV_hostOps (x : Reg) (b : Byte) : (s.setV x b).hostOps = s.hostOps := rfl
@[simp] theorem State.setV_font (x : Reg) (b : Byte) : (s.setV x b).font = s.font := rfl

/-! ### setI -/

@[simp] theorem State.setI_v (w : Word) : (s.setI w).v = s.v := rfl
@[simp] theorem State.setI_i (w : Word) : (s.setI w).i = w := rfl
@[simp] theorem State.setI_pc (w : Word) : (s.setI w).pc = s.pc := rfl
@[simp] theorem State.setI_sp (w : Word) : (s.setI w).sp = s.sp := rfl
@[simp] theorem State.setI_stack (w : Word) : (s.setI w).stack = s.stack := rfl
@[simp] theorem State.setI_dt (w : Word) : (s.setI w).dt = s.dt := rfl
@[simp] theorem State.setI_st (w : Word) : (s.setI w).st = s.st := rfl
@[simp] theorem State.setI_mem (w : Word) : (s.setI w).mem = s.mem := rfl
@[simp] theorem State.setI_disp (w : Word) : (s.setI w).disp = s.disp := rfl
@[simp] theorem State.setI_key (w : Word) : (s.setI w).key = s.key := rfl
@[simp] theorem State.setI_halted (w : Word) : (s.setI w).halted = s.halted := rfl
@[simp] theorem State.setI_faultCode (w : Word) : (s.setI w).faultCode = s.faultCode := rfl
@[simp] theorem State.setI_faultAddr (w : Word) : (s.setI w).faultAddr = s.faultAddr := rfl
@[simp] theorem State.setI_faultOp (w : Word) : (s.setI w).faultOp = s.faultOp := rfl
@[simp] theorem State.setI_faultOpValid (w : Word) : (s.setI w).faultOpValid = s.faultOpValid := rfl
@[simp] theorem State.setI_rnd (w : Word) : (s.setI w).rnd = s.rnd := rfl
@[simp] theorem State.setI_rndCount (w : Word) : (s.setI w).rndCount = s.rndCount := rfl
@[simp] theorem State.setI_hostOps (w : Word) : (s.setI w).hostOps = s.hostOps := rfl
@[simp] theorem State.setI_font (w : Word) : (s.setI w).font = s.font := rfl

/-! ### setPc -/

@[simp] theorem State.setPc_v (w : Word) : (s.setPc w).v = s.v := rfl
@[simp] theorem State.setPc_i (w : Word) : (s.setPc w).i = s.i := rfl
@[simp] theorem State.setPc_pc (w : Word) : (s.setPc w).pc = w := rfl
@[simp] theorem State.setPc_sp (w : Word) : (s.setPc w).sp = s.sp := rfl
@[simp] theorem State.setPc_stack (w : Word) : (s.setPc w).stack = s.stack := rfl
@[simp] theorem State.setPc_dt (w : Word) : (s.setPc w).dt = s.dt := rfl
@[simp] theorem State.setPc_st (w : Word) : (s.setPc w).st = s.st := rfl
@[simp] theorem State.setPc_mem (w : Word) : (s.setPc w).mem = s.mem := rfl
@[simp] theorem State.setPc_disp (w : Word) : (s.setPc w).disp = s.disp := rfl
@[simp] theorem State.setPc_key (w : Word) : (s.setPc w).key = s.key := rfl
@[simp] theorem State.setPc_halted (w : Word) : (s.setPc w).halted = s.halted := rfl
@[simp] theorem State.setPc_faultCode (w : Word) : (s.setPc w).faultCode = s.faultCode := rfl
@[simp] theorem State.setPc_faultAddr (w : Word) : (s.setPc w).faultAddr = s.faultAddr := rfl
@[simp] theorem State.setPc_faultOp (w : Word) : (s.setPc w).faultOp = s.faultOp := rfl
@[simp] theorem State.setPc_faultOpValid (w : Word) : (s.setPc w).faultOpValid = s.faultOpValid := rfl
@[simp] theorem State.setPc_rnd (w : Word) : (s.setPc w).rnd = s.rnd := rfl
@[simp] theorem State.setPc_rndCount (w : Word) : (s.setPc w).rndCount = s.rndCount := rfl
@[simp] theorem State.setPc_hostOps (w : Word) : (s.setPc w).hostOps = s.hostOps := rfl
@[simp] theorem State.setPc_font (w : Word) : (s.setPc w).font = s.font := rfl

/-! ### setDt -/

@[simp] theorem State.setDt_v (b : Byte) : (s.setDt b).v = s.v := rfl
@[simp] theorem State.setDt_i (b : Byte) : (s.setDt b).i = s.i := rfl
@[simp] theorem State.setDt_pc (b : Byte) : (s.setDt b).pc = s.pc := rfl
@[simp] theorem State.setDt_sp (b : Byte) : (s.setDt b).sp = s.sp := rfl
@[simp] theorem State.setDt_stack (b : Byte) : (s.setDt b).stack = s.stack := rfl
@[simp] theorem State.setDt_dt (b : Byte) : (s.setDt b).dt = b := rfl
@[simp] theorem State.setDt_st (b : Byte) : (s.setDt b).st = s.st := rfl
@[simp] theorem State.setDt_mem (b : Byte) : (s.setDt b).mem = s.mem := rfl
@[simp] theorem State.setDt_disp (b : Byte) : (s.setDt b).disp = s.disp := rfl
@[simp] theorem State.setDt_key (b : Byte) : (s.setDt b).key = s.key := rfl
@[simp] theorem State.setDt_halted (b : Byte) : (s.setDt b).halted = s.halted := rfl
@[simp] theorem State.setDt_faultCode (b : Byte) : (s.setDt b).faultCode = s.faultCode := rfl
@[simp] theorem State.setDt_faultAddr (b : Byte) : (s.setDt b).faultAddr = s.faultAddr := rfl
@[simp] theorem State.setDt_faultOp (b : Byte) : (s.setDt b).faultOp = s.faultOp := rfl
@[simp] theorem State.setDt_faultOpValid (b : Byte) : (s.setDt b).faultOpValid = s.faultOpValid := rfl
@[simp] theorem State.setDt_rnd (b : Byte) : (s.setDt b).rnd = s.rnd := rfl
@[simp] theorem State.setDt_rndCount (b : Byte) : (s.setDt b).rndCount = s.rndCount := rfl
@[simp] theorem State.setDt_hostOps (b : Byte) : (s.setDt b).hostOps = s.hostOps := rfl
@[simp] theorem State.setDt_font (b : Byte) : (s.setDt b).font = s.font := rfl

/-! ### setSt -/

@[simp] theorem State.setSt_v (b : Byte) : (s.setSt b).v = s.v := rfl
@[simp] theorem State.setSt_i (b : Byte) : (s.setSt b).i = s.i := rfl
@[simp] theorem State.setSt_pc (b : Byte) : (s.setSt b).pc = s.pc := rfl
@[simp] theorem State.setSt_sp (b : Byte) : (s.setSt b).sp = s.sp := rfl
@[simp] theorem State.setSt_stack (b : Byte) : (s.setSt b).stack = s.stack := rfl
@[simp] theorem State.setSt_dt (b : Byte) : (s.setSt b).dt = s.dt := rfl
@[simp] theorem State.setSt_st (b : Byte) : (s.setSt b).st = b := rfl
@[simp] theorem State.setSt_mem (b : Byte) : (s.setSt b).mem = s.mem := rfl
@[simp] theorem State.setSt_disp (b : Byte) : (s.setSt b).disp = s.disp := rfl
@[simp] theorem State.setSt_key (b : Byte) : (s.setSt b).key = s.key := rfl
@[simp] theorem State.setSt_halted (b : Byte) : (s.setSt b).halted = s.halted := rfl
@[simp] theorem State.setSt_faultCode (b : Byte) : (s.setSt b).faultCode = s.faultCode := rfl
@[simp] theorem State.setSt_faultAddr (b : Byte) : (s.setSt b).faultAddr = s.faultAddr := rfl
@[simp] theorem State.setSt_faultOp (b : Byte) : (s.setSt b).faultOp = s.faultOp := rfl
@[simp] theorem State.setSt_faultOpValid (b : Byte) : (s.setSt b).faultOpValid = s.faultOpValid := rfl
@[simp] theorem State.setSt_rnd (b : Byte) : (s.setSt b).rnd = s.rnd := rfl
@[simp] theorem State.setSt_rndCount (b : Byte) : (s.setSt b).rndCount = s.rndCount := rfl
@[simp] theorem State.setSt_hostOps (b : Byte) : (s.setSt b).hostOps = s.hostOps := rfl
@[simp] theorem State.setSt_font (b : Byte) : (s.setSt b).font = s.font := rfl

/-! ### setMem -/

@[simp] theorem State.setMem_v (m : Memory) : (s.setMem m).v = s.v := rfl
@[simp] theorem State.setMem_i (m : Memory) : (s.setMem m).i = s.i := rfl
@[simp] theorem State.setMem_pc (m : Memory) : (s.setMem m).pc = s.pc := rfl
@[simp] theorem State.setMem_sp (m : Memory) : (s.setMem m).sp = s.sp := rfl
@[simp] theorem State.setMem_stack (m : Memory) : (s.setMem m).stack = s.stack := rfl
@[simp] theorem State.setMem_dt (m : Memory) : (s.setMem m).dt = s.dt := rfl
@[simp] theorem State.setMem_st (m : Memory) : (s.setMem m).st = s.st := rfl
@[simp] theorem State.setMem_mem (m : Memory) : (s.setMem m).mem = m := rfl
@[simp] theorem State.setMem_disp (m : Memory) : (s.setMem m).disp = s.disp := rfl
@[simp] theorem State.setMem_key (m : Memory) : (s.setMem m).key = s.key := rfl
@[simp] theorem State.setMem_halted (m : Memory) : (s.setMem m).halted = s.halted := rfl
@[simp] theorem State.setMem_faultCode (m : Memory) : (s.setMem m).faultCode = s.faultCode := rfl
@[simp] theorem State.setMem_faultAddr (m : Memory) : (s.setMem m).faultAddr = s.faultAddr := rfl
@[simp] theorem State.setMem_faultOp (m : Memory) : (s.setMem m).faultOp = s.faultOp := rfl
@[simp] theorem State.setMem_faultOpValid (m : Memory) : (s.setMem m).faultOpValid = s.faultOpValid := rfl
@[simp] theorem State.setMem_rnd (m : Memory) : (s.setMem m).rnd = s.rnd := rfl
@[simp] theorem State.setMem_rndCount (m : Memory) : (s.setMem m).rndCount = s.rndCount := rfl
@[simp] theorem State.setMem_hostOps (m : Memory) : (s.setMem m).hostOps = s.hostOps := rfl
@[simp] theorem State.setMem_font (m : Memory) : (s.setMem m).font = s.font := rfl

/-! ### setDisp -/

@[simp] theorem State.setDisp_v (d : Display) : (s.setDisp d).v = s.v := rfl
@[simp] theorem State.setDisp_i (d : Display) : (s.setDisp d).i = s.i := rfl
@[simp] theorem State.setDisp_pc (d : Display) : (s.setDisp d).pc = s.pc := rfl
@[simp] theorem State.setDisp_sp (d : Display) : (s.setDisp d).sp = s.sp := rfl
@[simp] theorem State.setDisp_stack (d : Display) : (s.setDisp d).stack = s.stack := rfl
@[simp] theorem State.setDisp_dt (d : Display) : (s.setDisp d).dt = s.dt := rfl
@[simp] theorem State.setDisp_st (d : Display) : (s.setDisp d).st = s.st := rfl
@[simp] theorem State.setDisp_mem (d : Display) : (s.setDisp d).mem = s.mem := rfl
@[simp] theorem State.setDisp_disp (d : Display) : (s.setDisp d).disp = d := rfl
@[simp] theorem State.setDisp_key (d : Display) : (s.setDisp d).key = s.key := rfl
@[simp] theorem State.setDisp_halted (d : Display) : (s.setDisp d).halted = s.halted := rfl
@[simp] theorem State.setDisp_faultCode (d : Display) : (s.setDisp d).faultCode = s.faultCode := rfl
@[simp] theorem State.setDisp_faultAddr (d : Display) : (s.setDisp d).faultAddr = s.faultAddr := rfl
@[simp] theorem State.setDisp_faultOp (d : Display) : (s.setDisp d).faultOp = s.faultOp := rfl
@[simp] theorem State.setDisp_faultOpValid (d : Display) : (s.setDisp d).faultOpValid = s.faultOpValid := rfl
@[simp] theorem State.setDisp_rnd (d : Display) : (s.setDisp d).rnd = s.rnd := rfl
@[simp] theorem State.setDisp_rndCount (d : Display) : (s.setDisp d).rndCount = s.rndCount := rfl
@[simp] theorem State.setDisp_hostOps (d : Display) : (s.setDisp d).hostOps = s.hostOps := rfl
@[simp] theorem State.setDisp_font (d : Display) : (s.setDisp d).font = s.font := rfl

/-! ### advance -/

@[simp] theorem State.advance_v : (s.advance).v = s.v := rfl
@[simp] theorem State.advance_i : (s.advance).i = s.i := rfl
@[simp] theorem State.advance_pc : (s.advance).pc = s.pc + 2 := rfl
@[simp] theorem State.advance_sp : (s.advance).sp = s.sp := rfl
@[simp] theorem State.advance_stack : (s.advance).stack = s.stack := rfl
@[simp] theorem State.advance_dt : (s.advance).dt = s.dt := rfl
@[simp] theorem State.advance_st : (s.advance).st = s.st := rfl
@[simp] theorem State.advance_mem : (s.advance).mem = s.mem := rfl
@[simp] theorem State.advance_disp : (s.advance).disp = s.disp := rfl
@[simp] theorem State.advance_key : (s.advance).key = s.key := rfl
@[simp] theorem State.advance_halted : (s.advance).halted = s.halted := rfl
@[simp] theorem State.advance_faultCode : (s.advance).faultCode = s.faultCode := rfl
@[simp] theorem State.advance_faultAddr : (s.advance).faultAddr = s.faultAddr := rfl
@[simp] theorem State.advance_faultOp : (s.advance).faultOp = s.faultOp := rfl
@[simp] theorem State.advance_faultOpValid : (s.advance).faultOpValid = s.faultOpValid := rfl
@[simp] theorem State.advance_rnd : (s.advance).rnd = s.rnd := rfl
@[simp] theorem State.advance_rndCount : (s.advance).rndCount = s.rndCount := rfl
@[simp] theorem State.advance_hostOps : (s.advance).hostOps = s.hostOps := rfl
@[simp] theorem State.advance_font : (s.advance).font = s.font := rfl

/-! ### skipIf -/

@[simp] theorem State.skipIf_v (c : Bool) : (s.skipIf c).v = s.v := by cases c <;> rfl
@[simp] theorem State.skipIf_i (c : Bool) : (s.skipIf c).i = s.i := by cases c <;> rfl
@[simp] theorem State.skipIf_pc (c : Bool) : (s.skipIf c).pc = if c then s.pc + 4 else s.pc + 2 := by cases c <;> rfl
@[simp] theorem State.skipIf_sp (c : Bool) : (s.skipIf c).sp = s.sp := by cases c <;> rfl
@[simp] theorem State.skipIf_stack (c : Bool) : (s.skipIf c).stack = s.stack := by cases c <;> rfl
@[simp] theorem State.skipIf_dt (c : Bool) : (s.skipIf c).dt = s.dt := by cases c <;> rfl
@[simp] theorem State.skipIf_st (c : Bool) : (s.skipIf c).st = s.st := by cases c <;> rfl
@[simp] theorem State.skipIf_mem (c : Bool) : (s.skipIf c).mem = s.mem := by cases c <;> rfl
@[simp] theorem State.skipIf_disp (c : Bool) : (s.skipIf c).disp = s.disp := by cases c <;> rfl
@[simp] theorem State.skipIf_key (c : Bool) : (s.skipIf c).key = s.key := by cases c <;> rfl
@[simp] theorem State.skipIf_halted (c : Bool) : (s.skipIf c).halted = s.halted := by cases c <;> rfl
@[simp] theorem State.skipIf_faultCode (c : Bool) : (s.skipIf c).faultCode = s.faultCode := by cases c <;> rfl
@[simp] theorem State.skipIf_faultAddr (c : Bool) : (s.skipIf c).faultAddr = s.faultAddr := by cases c <;> rfl
@[simp] theorem State.skipIf_faultOp (c : Bool) : (s.skipIf c).faultOp = s.faultOp := by cases c <;> rfl
@[simp] theorem State.skipIf_faultOpValid (c : Bool) : (s.skipIf c).faultOpValid = s.faultOpValid := by cases c <;> rfl
@[simp] theorem State.skipIf_rnd (c : Bool) : (s.skipIf c).rnd = s.rnd := by cases c <;> rfl
@[simp] theorem State.skipIf_rndCount (c : Bool) : (s.skipIf c).rndCount = s.rndCount := by cases c <;> rfl
@[simp] theorem State.skipIf_hostOps (c : Bool) : (s.skipIf c).hostOps = s.hostOps := by cases c <;> rfl
@[simp] theorem State.skipIf_font (c : Bool) : (s.skipIf c).font = s.font := by cases c <;> rfl

/-! ### countRnd -/

@[simp] theorem State.countRnd_v : (s.countRnd).v = s.v := rfl
@[simp] theorem State.countRnd_i : (s.countRnd).i = s.i := rfl
@[simp] theorem State.countRnd_pc : (s.countRnd).pc = s.pc := rfl
@[simp] theorem State.countRnd_sp : (s.countRnd).sp = s.sp := rfl
@[simp] theorem State.countRnd_stack : (s.countRnd).stack = s.stack := rfl
@[simp] theorem State.countRnd_dt : (s.countRnd).dt = s.dt := rfl
@[simp] theorem State.countRnd_st : (s.countRnd).st = s.st := rfl
@[simp] theorem State.countRnd_mem : (s.countRnd).mem = s.mem := rfl
@[simp] theorem State.countRnd_disp : (s.countRnd).disp = s.disp := rfl
@[simp] theorem State.countRnd_key : (s.countRnd).key = s.key := rfl
@[simp] theorem State.countRnd_halted : (s.countRnd).halted = s.halted := rfl
@[simp] theorem State.countRnd_faultCode : (s.countRnd).faultCode = s.faultCode := rfl
@[simp] theorem State.countRnd_faultAddr : (s.countRnd).faultAddr = s.faultAddr := rfl
@[simp] theorem State.countRnd_faultOp : (s.countRnd).faultOp = s.faultOp := rfl
@[simp] theorem State.countRnd_faultOpValid : (s.countRnd).faultOpValid = s.faultOpValid := rfl
@[simp] theorem State.countRnd_rnd : (s.countRnd).rnd = s.rnd := rfl
@[simp] theorem State.countRnd_rndCount : (s.countRnd).rndCount = s.rndCount + 1 := rfl
@[simp] theorem State.countRnd_hostOps : (s.countRnd).hostOps = s.hostOps := rfl
@[simp] theorem State.countRnd_font : (s.countRnd).font = s.font := rfl

/-! ### withRnd -/

@[simp] theorem State.withRnd_v (r : Option Byte) : (s.withRnd r).v = s.v := rfl
@[simp] theorem State.withRnd_i (r : Option Byte) : (s.withRnd r).i = s.i := rfl
@[simp] theorem State.withRnd_pc (r : Option Byte) : (s.withRnd r).pc = s.pc := rfl
@[simp] theorem State.withRnd_sp (r : Option Byte) : (s.withRnd r).sp = s.sp := rfl
@[simp] theorem State.withRnd_stack (r : Option Byte) : (s.withRnd r).stack = s.stack := rfl
@[simp] theorem State.withRnd_dt (r : Option Byte) : (s.withRnd r).dt = s.dt := rfl
@[simp] theorem State.withRnd_st (r : Option Byte) : (s.withRnd r).st = s.st := rfl
@[simp] theorem State.withRnd_mem (r : Option Byte) : (s.withRnd r).mem = s.mem := rfl
@[simp] theorem State.withRnd_disp (r : Option Byte) : (s.withRnd r).disp = s.disp := rfl
@[simp] theorem State.withRnd_key (r : Option Byte) : (s.withRnd r).key = s.key := rfl
@[simp] theorem State.withRnd_halted (r : Option Byte) : (s.withRnd r).halted = s.halted := rfl
@[simp] theorem State.withRnd_faultCode (r : Option Byte) : (s.withRnd r).faultCode = s.faultCode := rfl
@[simp] theorem State.withRnd_faultAddr (r : Option Byte) : (s.withRnd r).faultAddr = s.faultAddr := rfl
@[simp] theorem State.withRnd_faultOp (r : Option Byte) : (s.withRnd r).faultOp = s.faultOp := rfl
@[simp] theorem State.withRnd_faultOpValid (r : Option Byte) : (s.withRnd r).faultOpValid = s.faultOpValid := rfl
@[simp] theorem State.withRnd_rnd (r : Option Byte) : (s.withRnd r).rnd = r := rfl
@[simp] theorem State.withRnd_rndCount (r : Option Byte) : (s.withRnd r).rndCount = s.rndCount := rfl
@[simp] theorem State.withRnd_hostOps (r : Option Byte) : (s.withRnd r).hostOps = s.hostOps := rfl
@[simp] theorem State.withRnd_font (r : Option Byte) : (s.withRnd r).font = s.font := rfl

/-! ### withHostOps -/

@[simp] theorem State.withHostOps_v (ops : List HostOp) : (s.withHostOps ops).v = s.v := rfl
@[simp] theorem State.withHostOps_i (ops : List HostOp) : (s.withHostOps ops).i = s.i := rfl
@[simp] theorem State.withHostOps_pc (ops : List HostOp) : (s.withHostOps ops).pc = s.pc := rfl
@[simp] theorem State.withHostOps_sp (ops : List HostOp) : (s.withHostOps ops).sp = s.sp := rfl
@[simp] theorem State.withHostOps_stack (ops : List HostOp) : (s.withHostOps ops).stack = s.stack := rfl
@[simp] theorem State.withHostOps_dt (ops : List HostOp) : (s.withHostOps ops).dt = s.dt := rfl
@[simp] theorem State.withHostOps_st (ops : List HostOp) : (s.withHostOps ops).st = s.st := rfl
@[simp] theorem State.withHostOps_mem (ops : List HostOp) : (s.withHostOps ops).mem = s.mem := rfl
@[simp] theorem State.withHostOps_disp (ops : List HostOp) : (s.withHostOps ops).disp = s.disp := rfl
@[simp] theorem State.withHostOps_key (ops : List HostOp) : (s.withHostOps ops).key = s.key := rfl
@[simp] theorem State.withHostOps_halted (ops : List HostOp) : (s.withHostOps ops).halted = s.halted := rfl
@[simp] theorem State.withHostOps_faultCode (ops : List HostOp) : (s.withHostOps ops).faultCode = s.faultCode := rfl
@[simp] theorem State.withHostOps_faultAddr (ops : List HostOp) : (s.withHostOps ops).faultAddr = s.faultAddr := rfl
@[simp] theorem State.withHostOps_faultOp (ops : List HostOp) : (s.withHostOps ops).faultOp = s.faultOp := rfl
@[simp] theorem State.withHostOps_faultOpValid (ops : List HostOp) : (s.withHostOps ops).faultOpValid = s.faultOpValid := rfl
@[simp] theorem State.withHostOps_rnd (ops : List HostOp) : (s.withHostOps ops).rnd = s.rnd := rfl
@[simp] theorem State.withHostOps_rndCount (ops : List HostOp) : (s.withHostOps ops).rndCount = s.rndCount := rfl
@[simp] theorem State.withHostOps_hostOps (ops : List HostOp) : (s.withHostOps ops).hostOps = ops := rfl
@[simp] theorem State.withHostOps_font (ops : List HostOp) : (s.withHostOps ops).font = s.font := rfl

/-! ### enterFault -/

@[simp] theorem State.enterFault_v (f : FatalFault) (op : Option Word) : (s.enterFault f op).v = s.v := rfl
@[simp] theorem State.enterFault_i (f : FatalFault) (op : Option Word) : (s.enterFault f op).i = s.i := rfl
@[simp] theorem State.enterFault_pc (f : FatalFault) (op : Option Word) : (s.enterFault f op).pc = s.pc := rfl
@[simp] theorem State.enterFault_sp (f : FatalFault) (op : Option Word) : (s.enterFault f op).sp = s.sp := rfl
@[simp] theorem State.enterFault_stack (f : FatalFault) (op : Option Word) : (s.enterFault f op).stack = s.stack := rfl
@[simp] theorem State.enterFault_dt (f : FatalFault) (op : Option Word) : (s.enterFault f op).dt = s.dt := rfl
@[simp] theorem State.enterFault_st (f : FatalFault) (op : Option Word) : (s.enterFault f op).st = s.st := rfl
@[simp] theorem State.enterFault_mem (f : FatalFault) (op : Option Word) : (s.enterFault f op).mem = s.mem := rfl
@[simp] theorem State.enterFault_disp (f : FatalFault) (op : Option Word) : (s.enterFault f op).disp = s.disp := rfl
@[simp] theorem State.enterFault_key (f : FatalFault) (op : Option Word) : (s.enterFault f op).key = s.key := rfl
@[simp] theorem State.enterFault_halted (f : FatalFault) (op : Option Word) : (s.enterFault f op).halted = true := rfl
@[simp] theorem State.enterFault_faultCode (f : FatalFault) (op : Option Word) : (s.enterFault f op).faultCode = f.status.code := rfl
@[simp] theorem State.enterFault_faultAddr (f : FatalFault) (op : Option Word) : (s.enterFault f op).faultAddr = BitVec.ofNat 16 f.addr := rfl
@[simp] theorem State.enterFault_faultOp (f : FatalFault) (op : Option Word) : (s.enterFault f op).faultOp = op.getD 0 := rfl
@[simp] theorem State.enterFault_faultOpValid (f : FatalFault) (op : Option Word) : (s.enterFault f op).faultOpValid = op.isSome := rfl
@[simp] theorem State.enterFault_rnd (f : FatalFault) (op : Option Word) : (s.enterFault f op).rnd = s.rnd := rfl
@[simp] theorem State.enterFault_rndCount (f : FatalFault) (op : Option Word) : (s.enterFault f op).rndCount = s.rndCount := rfl
@[simp] theorem State.enterFault_hostOps (f : FatalFault) (op : Option Word) : (s.enterFault f op).hostOps = s.hostOps := rfl
@[simp] theorem State.enterFault_font (f : FatalFault) (op : Option Word) : (s.enterFault f op).font = s.font := rfl

/-! ### The host's operations -/

@[simp] theorem opReset_v : (opReset s).v = Vector.replicate 16 0 := rfl
@[simp] theorem opReset_i : (opReset s).i = 0 := rfl
@[simp] theorem opReset_pc : (opReset s).pc = 0x200 := rfl
@[simp] theorem opReset_sp : (opReset s).sp = 0 := rfl
@[simp] theorem opReset_stack : (opReset s).stack = Vector.replicate 16 0 := rfl
@[simp] theorem opReset_dt : (opReset s).dt = 0 := rfl
@[simp] theorem opReset_st : (opReset s).st = 0 := rfl
@[simp] theorem opReset_mem : (opReset s).mem = Memory.writeAll s.font s.mem Config.fontBase s.font.toList := by
  simp only [opReset]
@[simp] theorem opReset_disp : (opReset s).disp = Display.blank := rfl
@[simp] theorem opReset_key : (opReset s).key = s.key := rfl
@[simp] theorem opReset_halted : (opReset s).halted = false := rfl
@[simp] theorem opReset_faultCode : (opReset s).faultCode = 0 := rfl
@[simp] theorem opReset_faultAddr : (opReset s).faultAddr = 0 := rfl
@[simp] theorem opReset_faultOp : (opReset s).faultOp = 0 := rfl
@[simp] theorem opReset_faultOpValid : (opReset s).faultOpValid = false := rfl
@[simp] theorem opReset_rnd : (opReset s).rnd = s.rnd := rfl
@[simp] theorem opReset_rndCount : (opReset s).rndCount = s.rndCount := rfl
@[simp] theorem opReset_hostOps : (opReset s).hostOps = s.hostOps := rfl
@[simp] theorem opReset_font : (opReset s).font = s.font := rfl

@[simp] theorem opSetKey_v (k : Reg) (p : Bool) : (opSetKey k p s).v = s.v := rfl
@[simp] theorem opSetKey_i (k : Reg) (p : Bool) : (opSetKey k p s).i = s.i := rfl
@[simp] theorem opSetKey_pc (k : Reg) (p : Bool) : (opSetKey k p s).pc = s.pc := rfl
@[simp] theorem opSetKey_sp (k : Reg) (p : Bool) : (opSetKey k p s).sp = s.sp := rfl
@[simp] theorem opSetKey_stack (k : Reg) (p : Bool) : (opSetKey k p s).stack = s.stack := rfl
@[simp] theorem opSetKey_dt (k : Reg) (p : Bool) : (opSetKey k p s).dt = s.dt := rfl
@[simp] theorem opSetKey_st (k : Reg) (p : Bool) : (opSetKey k p s).st = s.st := rfl
@[simp] theorem opSetKey_mem (k : Reg) (p : Bool) : (opSetKey k p s).mem = s.mem := rfl
@[simp] theorem opSetKey_disp (k : Reg) (p : Bool) : (opSetKey k p s).disp = s.disp := rfl
@[simp] theorem opSetKey_key (k : Reg) (p : Bool) : (opSetKey k p s).key = s.key.set k.val p := rfl
@[simp] theorem opSetKey_halted (k : Reg) (p : Bool) : (opSetKey k p s).halted = s.halted := rfl
@[simp] theorem opSetKey_faultCode (k : Reg) (p : Bool) : (opSetKey k p s).faultCode = s.faultCode := rfl
@[simp] theorem opSetKey_faultAddr (k : Reg) (p : Bool) : (opSetKey k p s).faultAddr = s.faultAddr := rfl
@[simp] theorem opSetKey_faultOp (k : Reg) (p : Bool) : (opSetKey k p s).faultOp = s.faultOp := rfl
@[simp] theorem opSetKey_faultOpValid (k : Reg) (p : Bool) : (opSetKey k p s).faultOpValid = s.faultOpValid := rfl
@[simp] theorem opSetKey_rnd (k : Reg) (p : Bool) : (opSetKey k p s).rnd = s.rnd := rfl
@[simp] theorem opSetKey_rndCount (k : Reg) (p : Bool) : (opSetKey k p s).rndCount = s.rndCount := rfl
@[simp] theorem opSetKey_hostOps (k : Reg) (p : Bool) : (opSetKey k p s).hostOps = s.hostOps := rfl
@[simp] theorem opSetKey_font (k : Reg) (p : Bool) : (opSetKey k p s).font = s.font := rfl

@[simp] theorem opTick_v : (opTick s).v = s.v := by unfold opTick; split <;> rfl
@[simp] theorem opTick_i : (opTick s).i = s.i := by unfold opTick; split <;> rfl
@[simp] theorem opTick_pc : (opTick s).pc = s.pc := by unfold opTick; split <;> rfl
@[simp] theorem opTick_sp : (opTick s).sp = s.sp := by unfold opTick; split <;> rfl
@[simp] theorem opTick_stack : (opTick s).stack = s.stack := by unfold opTick; split <;> rfl
@[simp] theorem opTick_dt : (opTick s).dt = if s.halted then s.dt else countDown s.dt := by
  unfold opTick; split <;> rfl
@[simp] theorem opTick_st : (opTick s).st = if s.halted then s.st else countDown s.st := by
  unfold opTick; split <;> rfl
@[simp] theorem opTick_mem : (opTick s).mem = s.mem := by unfold opTick; split <;> rfl
@[simp] theorem opTick_disp : (opTick s).disp = s.disp := by unfold opTick; split <;> rfl
@[simp] theorem opTick_key : (opTick s).key = s.key := by unfold opTick; split <;> rfl
@[simp] theorem opTick_halted : (opTick s).halted = s.halted := by unfold opTick; split <;> rfl
@[simp] theorem opTick_faultCode : (opTick s).faultCode = s.faultCode := by unfold opTick; split <;> rfl
@[simp] theorem opTick_faultAddr : (opTick s).faultAddr = s.faultAddr := by unfold opTick; split <;> rfl
@[simp] theorem opTick_faultOp : (opTick s).faultOp = s.faultOp := by unfold opTick; split <;> rfl
@[simp] theorem opTick_faultOpValid : (opTick s).faultOpValid = s.faultOpValid := by unfold opTick; split <;> rfl
@[simp] theorem opTick_rnd : (opTick s).rnd = s.rnd := by unfold opTick; split <;> rfl
@[simp] theorem opTick_rndCount : (opTick s).rndCount = s.rndCount := by unfold opTick; split <;> rfl
@[simp] theorem opTick_hostOps : (opTick s).hostOps = s.hostOps := by unfold opTick; split <;> rfl
@[simp] theorem opTick_font : (opTick s).font = s.font := by unfold opTick; split <;> rfl

@[simp] theorem opLoad_v (bytes : List Byte) : (opLoad bytes s).v = s.v := by
  unfold opLoad; split <;> rfl
@[simp] theorem opLoad_i (bytes : List Byte) : (opLoad bytes s).i = s.i := by
  unfold opLoad; split <;> rfl
@[simp] theorem opLoad_pc (bytes : List Byte) : (opLoad bytes s).pc =
    if bytes.length > Config.maxProgLen then s.pc else 0x200 := by
  unfold opLoad; split <;> rfl
@[simp] theorem opLoad_sp (bytes : List Byte) : (opLoad bytes s).sp = s.sp := by
  unfold opLoad; split <;> rfl
@[simp] theorem opLoad_stack (bytes : List Byte) : (opLoad bytes s).stack = s.stack := by
  unfold opLoad; split <;> rfl
@[simp] theorem opLoad_dt (bytes : List Byte) : (opLoad bytes s).dt = s.dt := by
  unfold opLoad; split <;> rfl
@[simp] theorem opLoad_st (bytes : List Byte) : (opLoad bytes s).st = s.st := by
  unfold opLoad; split <;> rfl
@[simp] theorem opLoad_mem (bytes : List Byte) : (opLoad bytes s).mem =
    if bytes.length > Config.maxProgLen then s.mem else Memory.writeAll s.font s.mem Config.progBase bytes := by
  unfold opLoad; split <;> rfl
@[simp] theorem opLoad_disp (bytes : List Byte) : (opLoad bytes s).disp = s.disp := by
  unfold opLoad; split <;> rfl
@[simp] theorem opLoad_key (bytes : List Byte) : (opLoad bytes s).key = s.key := by
  unfold opLoad; split <;> rfl
@[simp] theorem opLoad_halted (bytes : List Byte) : (opLoad bytes s).halted = s.halted := by
  unfold opLoad; split <;> rfl
@[simp] theorem opLoad_faultCode (bytes : List Byte) : (opLoad bytes s).faultCode = s.faultCode := by
  unfold opLoad; split <;> rfl
@[simp] theorem opLoad_faultAddr (bytes : List Byte) : (opLoad bytes s).faultAddr = s.faultAddr := by
  unfold opLoad; split <;> rfl
@[simp] theorem opLoad_faultOp (bytes : List Byte) : (opLoad bytes s).faultOp = s.faultOp := by
  unfold opLoad; split <;> rfl
@[simp] theorem opLoad_faultOpValid (bytes : List Byte) : (opLoad bytes s).faultOpValid = s.faultOpValid := by
  unfold opLoad; split <;> rfl
@[simp] theorem opLoad_rnd (bytes : List Byte) : (opLoad bytes s).rnd = s.rnd := by
  unfold opLoad; split <;> rfl
@[simp] theorem opLoad_rndCount (bytes : List Byte) : (opLoad bytes s).rndCount = s.rndCount := by
  unfold opLoad; split <;> rfl
@[simp] theorem opLoad_hostOps (bytes : List Byte) : (opLoad bytes s).hostOps = s.hostOps := by
  unfold opLoad; split <;> rfl
@[simp] theorem opLoad_font (bytes : List Byte) : (opLoad bytes s).font = s.font := by
  unfold opLoad; split <;> rfl

/-! ### powerOn -/

@[simp] theorem State.powerOn_v (f : Font) : (State.powerOn f).v = Vector.replicate 16 0 := rfl
@[simp] theorem State.powerOn_i (f : Font) : (State.powerOn f).i = 0 := rfl
@[simp] theorem State.powerOn_pc (f : Font) : (State.powerOn f).pc = 0x200 := rfl
@[simp] theorem State.powerOn_sp (f : Font) : (State.powerOn f).sp = 0 := rfl
@[simp] theorem State.powerOn_stack (f : Font) : (State.powerOn f).stack = Vector.replicate 16 0 := rfl
@[simp] theorem State.powerOn_dt (f : Font) : (State.powerOn f).dt = 0 := rfl
@[simp] theorem State.powerOn_st (f : Font) : (State.powerOn f).st = 0 := rfl
@[simp] theorem State.powerOn_mem (f : Font) : (State.powerOn f).mem = [] := rfl
@[simp] theorem State.powerOn_disp (f : Font) : (State.powerOn f).disp = Display.blank := rfl
@[simp] theorem State.powerOn_key (f : Font) : (State.powerOn f).key = Vector.replicate 16 false := rfl
@[simp] theorem State.powerOn_halted (f : Font) : (State.powerOn f).halted = false := rfl
@[simp] theorem State.powerOn_faultCode (f : Font) : (State.powerOn f).faultCode = 0 := rfl
@[simp] theorem State.powerOn_faultAddr (f : Font) : (State.powerOn f).faultAddr = 0 := rfl
@[simp] theorem State.powerOn_faultOp (f : Font) : (State.powerOn f).faultOp = 0 := rfl
@[simp] theorem State.powerOn_faultOpValid (f : Font) : (State.powerOn f).faultOpValid = false := rfl
@[simp] theorem State.powerOn_rnd (f : Font) : (State.powerOn f).rnd = none := rfl
@[simp] theorem State.powerOn_rndCount (f : Font) : (State.powerOn f).rndCount = 0 := rfl
@[simp] theorem State.powerOn_hostOps (f : Font) : (State.powerOn f).hostOps = [] := rfl
@[simp] theorem State.powerOn_font (f : Font) : (State.powerOn f).font = f := rfl

end Sys2Proof.Machine
end

