-- ==== Sys2Proof/Laws/Registers.lean ====
section
/-! SUPPORT. Reading a register after a write, and what each register update leaves. -/

namespace Sys2Proof.Machine

/-- Reading V[y] after a write to V[x] (R18). -/
theorem State.getV_setV (s : State) (x y : Reg) (b : Byte) :
    (s.setV x b).getV y = if x = y then b else s.getV y := by
  simp [State.getV, Vector.getElem_set, Fin.ext_iff]

@[simp] theorem State.getV_setV_same (s : State) (x : Reg) (b : Byte) : (s.setV x b).getV x = b := by
  simp [State.getV_setV]

theorem State.getV_setV_other (s : State) {x y : Reg} (b : Byte) (h : y ≠ x) : (s.setV x b).getV y = s.getV y := by
  simp [State.getV_setV, Ne.symm h]

@[simp] theorem State.getV_setI (s : State) (w : Word) (x : Reg) : (s.setI w).getV x = s.getV x := rfl
@[simp] theorem State.getV_setPc (s : State) (w : Word) (x : Reg) : (s.setPc w).getV x = s.getV x := rfl
@[simp] theorem State.getV_setDt (s : State) (b : Byte) (x : Reg) : (s.setDt b).getV x = s.getV x := rfl
@[simp] theorem State.getV_setSt (s : State) (b : Byte) (x : Reg) : (s.setSt b).getV x = s.getV x := rfl
@[simp] theorem State.getV_setMem (s : State) (m : Memory) (x : Reg) : (s.setMem m).getV x = s.getV x := rfl
@[simp] theorem State.getV_setDisp (s : State) (d : Display) (x : Reg) : (s.setDisp d).getV x = s.getV x := rfl
@[simp] theorem State.getV_advance (s : State) (x : Reg) : s.advance.getV x = s.getV x := rfl
@[simp] theorem State.getV_countRnd (s : State) (x : Reg) : s.countRnd.getV x = s.getV x := rfl
@[simp] theorem State.getV_withRnd (s : State) (r : Option Byte) (x : Reg) : (s.withRnd r).getV x = s.getV x := rfl
@[simp] theorem State.getV_enterFault (s : State) (f : FatalFault) (op : Option Word) (x : Reg) :
    (s.enterFault f op).getV x = s.getV x := rfl

@[simp] theorem State.getV_skipIf (s : State) (c : Bool) (x : Reg) : (s.skipIf c).getV x = s.getV x := by
  cases c <;> rfl

/-- The result and the flag of an ALU instruction: VF is the flag, V[x] the result where x is not F (R108). -/
theorem State.getV_setResultFlag (s : State) (x y : Reg) (r f : Byte) :
    (s.setResultFlag x r f).getV y = if y = regF then f else if y = x then r else s.getV y := by
  simp only [State.setResultFlag, State.getV_setV]
  by_cases hf : y = regF
  · simp [hf]
  · by_cases hx : y = x
    · subst hx; simp [hf, Ne.symm hf]
    · simp [hf, hx, Ne.symm hf, Ne.symm hx]

/-- Reading a register after a block load from register k on (R126). -/
theorem loadV_getElem (v : Vector Byte 16) (k : Nat) (bs : List Byte) (j : Nat) (hj : j < 16) :
    (loadV v k bs)[j] = if h : k ≤ j ∧ j - k < bs.length then bs[j - k]'h.2 else v[j] := by
  induction bs generalizing v k with
  | nil => simp [loadV]
  | cons b bs ih =>
    rw [loadV, ih]
    by_cases h1 : k + 1 ≤ j ∧ j - (k + 1) < bs.length
    · have h2 : k ≤ j ∧ j - k < (b :: bs).length := ⟨by omega, by simp; omega⟩
      have h3 : j - k = j - (k + 1) + 1 := by omega
      simp only [dif_pos h1, dif_pos h2]
      simp [h3]
    · simp only [dif_neg h1]
      by_cases h4 : k = j
      · subst h4; simp
      · have h5 : ¬ (k ≤ j ∧ j - k < (b :: bs).length) := by simp; simp at h1; omega
        simp only [dif_neg h5]
        simp [h4]

/-- The registers V0 to V[x], as the store reads them (R125). -/
@[simp] theorem State.firstV_length (s : State) (x : Reg) : (s.firstV x).length = x.val + 1 := by
  simp [State.firstV]

theorem State.firstV_getElem (s : State) (x : Reg) (k : Nat) (h : k < (s.firstV x).length) :
    (s.firstV x)[k] = s.v[k]'(by simp at h; omega) := by
  simp [State.firstV]

/-- A flag's byte is 1 or 0. -/
theorem flagByte_eq_one (b : Bool) : flagByte b = 1 ↔ b = true := by cases b <;> decide
theorem flagByte_eq_zero (b : Bool) : flagByte b = 0 ↔ b = false := by cases b <;> decide
theorem flagByte_toNat (b : Bool) : (flagByte b).toNat = if b then 1 else 0 := by cases b <;> rfl

end Sys2Proof.Machine
end

