-- ==== Sys2Proof/Laws/Exec.lean ====
section
/-! SUPPORT. What ending an instruction, pushing and popping, a STEP and a step can do, each said once. -/

namespace Sys2Proof.Machine

@[simp] theorem settle_ok (i : Instr) (s t : State) : settle i s (.ok t) = .next t := rfl

@[simp] theorem settle_error (i : Instr) (s : State) (f : FatalFault) :
    settle i s (.error f) = .next (s.enterFault f (some (encode i))) := rfl

/-- An instruction ends in its working copy, or in the fault it raised with the state before it otherwise as it was (R13, R141). -/
theorem settle_next {i : Instr} {s t : State} {r : Except FatalFault State} (h : settle i s r = .next t) :
    r = .ok t ∨ ∃ f, r = .error f ∧ t = s.enterFault f (some (encode i)) := by
  cases r with
  | ok u => simp only [settle_ok, Host.Outcome.next.injEq] at h; exact .inl (by rw [h])
  | error f => simp only [settle_error, Host.Outcome.next.injEq] at h; exact .inr ⟨f, rfl, h.symm⟩

/-- A mapped result is an answer when the result was one. -/
theorem Except.map_eq_ok {α β : Type} {r : Except FatalFault α} {f : α → β} {b : β} (h : r.map f = .ok b) :
    ∃ a, r = .ok a ∧ f a = b := by
  cases r with
  | ok a => simp only [Except.map, Except.ok.injEq] at h; exact ⟨a, rfl, h⟩
  | error e => simp only [Except.map, reduceCtorEq] at h

theorem Except.map_eq_error {α β : Type} {r : Except FatalFault α} {f : α → β} {e : FatalFault} (h : r.map f = .error e) :
    r = .error e := by
  cases r with
  | ok a => simp only [Except.map, reduceCtorEq] at h
  | error e' => simpa only [Except.map, Except.error.injEq] using h

/-- Push below a full stack (R26). -/
theorem State.push_ok (s : State) (w : Word) (h : s.sp.val < 16) :
    s.push w = .ok { s with stack := s.stack.set s.sp.val w h, sp := ⟨s.sp.val + 1, by omega⟩ } := by
  simp only [State.push, dif_pos h]

theorem State.push_error (s : State) (w : Word) (h : ¬ s.sp.val < 16) :
    s.push w = .error (.stackOverflow s.pc.toNat) := by
  simp only [State.push, dif_neg h]

/-- Pop from a stack with an entry (R27). -/
theorem State.pop_ok (s : State) (h : 0 < s.sp.val) :
    s.pop = .ok (s.stack[s.sp.val - 1]'(by omega), { s with sp := ⟨s.sp.val - 1, by omega⟩ }) := by
  simp only [State.pop, dif_pos h]

theorem State.pop_error (s : State) (h : ¬ 0 < s.sp.val) : s.pop = .error (.stackUnderflow s.pc.toNat) := by
  simp only [State.pop, dif_neg h]

/-- The key an operand names (R106, R107). -/
theorem State.keyLevel_ok (s : State) (b : Byte) (h : b.toNat < 16) : s.keyLevel b = .ok s.key[b.toNat] := by
  simp only [State.keyLevel, dif_pos h]

theorem State.keyLevel_error (s : State) (b : Byte) (h : ¬ b.toNat < 16) :
    s.keyLevel b = .error (.outOfRange b.toNat) := by
  simp only [State.keyLevel, dif_neg h]

/-- Everything a STEP can do (R85, R86, R94, R141). -/
theorem stepOp_cases {s t : State} (h : stepOp s = .next t) :
    (s.halted = true ∧ t = s) ∨
    (s.halted = false ∧ ∃ f, fetch s.font s.mem s.pc.toNat = .error f ∧ t = s.enterFault f none) ∨
    (s.halted = false ∧ ∃ op r, fetch s.font s.mem s.pc.toNat = .ok op ∧ decode op = .error r ∧ t = unknownOpcode s) ∨
    (s.halted = false ∧ ∃ op i, fetch s.font s.mem s.pc.toNat = .ok op ∧ decode op = .ok i ∧ exec i s = .next t) := by
  unfold stepOp at h
  cases hh : s.halted with
  | true => rw [hh] at h; cases h; exact .inl ⟨rfl, rfl⟩
  | false =>
    rw [hh] at h
    cases hf : fetch s.font s.mem s.pc.toNat with
    | error f => rw [hf] at h; cases h; exact .inr (.inl ⟨rfl, f, rfl, rfl⟩)
    | ok op =>
      rw [hf] at h
      cases hd : decode op with
      | error r => simp only [hd] at h; cases h; exact .inr (.inr (.inl ⟨rfl, op, r, rfl, hd, rfl⟩))
      | ok i => simp only [hd] at h; exact .inr (.inr (.inr ⟨rfl, op, i, rfl, hd, h⟩))

/-- Everything a step can do (R45): the STEP of an empty queue, or its oldest operation. -/
theorem step_cases {s t : State} (h : step s = .next t) :
    (s.hostOps = [] ∧ stepOp (s.withRnd none) = .next t) ∨
    ∃ op rest, s.hostOps = op :: rest ∧ perform op (s.withHostOps rest) = .next t := by
  unfold step nextOp at h
  cases ho : s.hostOps with
  | nil => rw [ho] at h; exact .inl ⟨rfl, h⟩
  | cons op rest => rw [ho] at h; exact .inr ⟨op, rest, rfl, h⟩

/-! ### Runs. -/

theorem run_zero (s : State) : Sys2Proof.core.run 0 s = .next s := Host.Core.run.eq_1 Sys2Proof.core s

theorem run_next {s t : State} (n : Nat) (h : step s = .next t) :
    Sys2Proof.core.run (n + 1) s = Sys2Proof.core.run n t := by
  have h2 : Sys2Proof.core.step s = .next t := h
  exact (Host.Core.run.eq_2 Sys2Proof.core s n).trans (by rw [h2])

end Sys2Proof.Machine
end

