-- ==== Sys2Proof/Laws/PerInstr.lean ====
section
/-! SUPPORT. Facts about every instruction as syntax, one lemma per constructor. The family FitsRow: an instruction is well formed, and its
opcode is of its row of R78. -/

namespace Sys2Proof.Laws.FitsRow

/-- Its operands fit their fields (R73), and its opcode passes its row's test (R78). -/
def Statement (i : Instr) : Prop := i.wf = true ∧ encode i &&& i.row.mask = i.row.bits

theorem operandsNNN_wf (nnn : BitVec 12) : (operandsNNN nnn).all Operand.wf = true := by
  simp only [operandsNNN, List.all_cons, List.all_nil, Bool.and_true, Operand.wf, Field.width]
  exact decide_eq_true nnn.isLt

theorem operandsXNN_wf (x : Reg) (nn : Byte) : (operandsXNN x nn).all Operand.wf = true := by
  simp only [operandsXNN, List.all_cons, List.all_nil, Bool.and_true, Operand.wf, Field.width, Bool.and_eq_true]
  exact ⟨decide_eq_true x.isLt, decide_eq_true nn.isLt⟩

theorem operandsXY_wf (x y : Reg) : (operandsXY x y).all Operand.wf = true := by
  simp [operandsXY, Operand.wf, Field.width]

theorem operandsX_wf (x : Reg) : (operandsX x).all Operand.wf = true := by
  simp [operandsX, Operand.wf, Field.width]

/-- The family of an encoding is what the mask 0xF000 leaves. -/
theorem encodeNNN_masked (f : Nat) (hf : f < 16) (nnn : BitVec 12) :
    encodeNNN f nnn &&& 0xF000#16 = BitVec.ofNat 16 (f * 4096) := by
  apply BitVec.eq_of_toNat_eq
  rw [mask_F000, encodeNNN_toNat f hf, BitVec.toNat_ofNat]; omega

theorem encodeXNN_masked (f : Nat) (hf : f < 16) (x : Reg) (nn : Byte) :
    encodeXNN f x nn &&& 0xF000#16 = BitVec.ofNat 16 (f * 4096) := by
  apply BitVec.eq_of_toNat_eq
  rw [mask_F000, encodeXNN_toNat f hf, BitVec.toNat_ofNat]; omega

theorem encodeXYN_masked (f : Nat) (hf : f < 16) (x y : Reg) (n : BitVec 4) :
    encodeXYN f x y n &&& 0xF000#16 = BitVec.ofNat 16 (f * 4096) := by
  apply BitVec.eq_of_toNat_eq
  rw [mask_F000, encodeXYN_toNat f hf, BitVec.toNat_ofNat]; omega

/-- The mask 0xF0FF leaves the family and the low byte. -/
theorem encodeXF_masked (f : Nat) (hf : f < 16) (x : Reg) (nn : Byte) :
    encodeXNN f x nn &&& 0xF0FF#16 = BitVec.ofNat 16 (f * 4096 + nn.toNat) := by
  apply BitVec.eq_of_toNat_eq
  rw [mask_F0FF, encodeXNN_toNat f hf, BitVec.toNat_ofNat]; omega

/-- The mask 0xF00F leaves the family and the low nibble. -/
theorem encodeXYF_masked (f : Nat) (hf : f < 16) (x y : Reg) (n : BitVec 4) :
    encodeXYN f x y n &&& 0xF00F#16 = BitVec.ofNat 16 (f * 4096 + n.toNat) := by
  apply BitVec.eq_of_toNat_eq
  rw [mask_F00F, encodeXYN_toNat f hf, BitVec.toNat_ofNat]; omega

theorem cls : Statement (.cls) :=
  ⟨rfl, rfl⟩

theorem ret : Statement (.ret) :=
  ⟨rfl, rfl⟩

theorem jp (nnn : BitVec 12) : Statement (.jp nnn) :=
  ⟨operandsNNN_wf nnn, encodeNNN_masked 1 (by omega) nnn⟩

theorem call (nnn : BitVec 12) : Statement (.call nnn) :=
  ⟨operandsNNN_wf nnn, encodeNNN_masked 2 (by omega) nnn⟩

theorem seImm (x : Reg) (nn : Byte) : Statement (.seImm x nn) :=
  ⟨operandsXNN_wf x nn, encodeXNN_masked 3 (by omega) x nn⟩

theorem sneImm (x : Reg) (nn : Byte) : Statement (.sneImm x nn) :=
  ⟨operandsXNN_wf x nn, encodeXNN_masked 4 (by omega) x nn⟩

theorem seReg (x y : Reg) : Statement (.seReg x y) :=
  ⟨operandsXY_wf x y, encodeXYF_masked 5 (by omega) x y 0⟩

theorem ldImm (x : Reg) (nn : Byte) : Statement (.ldImm x nn) :=
  ⟨operandsXNN_wf x nn, encodeXNN_masked 6 (by omega) x nn⟩

theorem addImm (x : Reg) (nn : Byte) : Statement (.addImm x nn) :=
  ⟨operandsXNN_wf x nn, encodeXNN_masked 7 (by omega) x nn⟩

theorem ldReg (x y : Reg) : Statement (.ldReg x y) :=
  ⟨operandsXY_wf x y, encodeXYF_masked 8 (by omega) x y 0⟩

theorem orReg (x y : Reg) : Statement (.orReg x y) :=
  ⟨operandsXY_wf x y, encodeXYF_masked 8 (by omega) x y 1⟩

theorem andReg (x y : Reg) : Statement (.andReg x y) :=
  ⟨operandsXY_wf x y, encodeXYF_masked 8 (by omega) x y 2⟩

theorem xorReg (x y : Reg) : Statement (.xorReg x y) :=
  ⟨operandsXY_wf x y, encodeXYF_masked 8 (by omega) x y 3⟩

theorem addReg (x y : Reg) : Statement (.addReg x y) :=
  ⟨operandsXY_wf x y, encodeXYF_masked 8 (by omega) x y 4⟩

theorem subReg (x y : Reg) : Statement (.subReg x y) :=
  ⟨operandsXY_wf x y, encodeXYF_masked 8 (by omega) x y 5⟩

theorem shr (x y : Reg) : Statement (.shr x y) :=
  ⟨operandsXY_wf x y, encodeXYF_masked 8 (by omega) x y 6⟩

theorem subnReg (x y : Reg) : Statement (.subnReg x y) :=
  ⟨operandsXY_wf x y, encodeXYF_masked 8 (by omega) x y 7⟩

theorem shl (x y : Reg) : Statement (.shl x y) :=
  ⟨operandsXY_wf x y, encodeXYF_masked 8 (by omega) x y 14⟩

theorem sneReg (x y : Reg) : Statement (.sneReg x y) :=
  ⟨operandsXY_wf x y, encodeXYF_masked 9 (by omega) x y 0⟩

theorem ldI (nnn : BitVec 12) : Statement (.ldI nnn) :=
  ⟨operandsNNN_wf nnn, encodeNNN_masked 10 (by omega) nnn⟩

theorem jpV0 (nnn : BitVec 12) : Statement (.jpV0 nnn) :=
  ⟨operandsNNN_wf nnn, encodeNNN_masked 11 (by omega) nnn⟩

theorem rnd (x : Reg) (nn : Byte) : Statement (.rnd x nn) :=
  ⟨operandsXNN_wf x nn, encodeXNN_masked 12 (by omega) x nn⟩

theorem drw (x y : Reg) (n : BitVec 4) : Statement (.drw x y n) :=
  ⟨by rw [Instr.wf, Instr.operands, List.all_append, operandsXY_wf]; simp [Operand.wf, Field.width, n.isLt], encodeXYN_masked 0xD (by omega) x y n⟩

theorem skp (x : Reg) : Statement (.skp x) :=
  ⟨operandsX_wf x, encodeXF_masked 14 (by omega) x 0x9e⟩

theorem sknp (x : Reg) : Statement (.sknp x) :=
  ⟨operandsX_wf x, encodeXF_masked 14 (by omega) x 0xa1⟩

theorem ldVxDT (x : Reg) : Statement (.ldVxDT x) :=
  ⟨operandsX_wf x, encodeXF_masked 15 (by omega) x 0x7⟩

theorem ldVxK (x : Reg) : Statement (.ldVxK x) :=
  ⟨operandsX_wf x, encodeXF_masked 15 (by omega) x 0xa⟩

theorem ldDTVx (x : Reg) : Statement (.ldDTVx x) :=
  ⟨operandsX_wf x, encodeXF_masked 15 (by omega) x 0x15⟩

theorem ldSTVx (x : Reg) : Statement (.ldSTVx x) :=
  ⟨operandsX_wf x, encodeXF_masked 15 (by omega) x 0x18⟩

theorem addI (x : Reg) : Statement (.addI x) :=
  ⟨operandsX_wf x, encodeXF_masked 15 (by omega) x 0x1e⟩

theorem ldF (x : Reg) : Statement (.ldF x) :=
  ⟨operandsX_wf x, encodeXF_masked 15 (by omega) x 0x29⟩

theorem ldB (x : Reg) : Statement (.ldB x) :=
  ⟨operandsX_wf x, encodeXF_masked 15 (by omega) x 0x33⟩

theorem storeRegs (x : Reg) : Statement (.storeRegs x) :=
  ⟨operandsX_wf x, encodeXF_masked 15 (by omega) x 0x55⟩

theorem loadRegs (x : Reg) : Statement (.loadRegs x) :=
  ⟨operandsX_wf x, encodeXF_masked 15 (by omega) x 0x65⟩

end Sys2Proof.Laws.FitsRow
end

