-- ==== Sys2Proof/Tests/Slice0.lean ====
section
/-! SUPPORT. The tests: the operand check refuses ill-formed operands, every pattern of R78 decodes to its instruction, at most two
steps an instruction (95_test_vectors.md, with the vector's name), and one witness a statement with hypotheses. Every expected value
is the spec's. -/

namespace Sys2Proof.Tests

open Sys2Proof.Machine Sys2Proof.Claim

/-! ### Operands (R72). -/

theorem test_wf_accepts_largest : ([⟨.x, 15⟩, ⟨.y, 15⟩, ⟨.n, 15⟩, ⟨.nn, 255⟩, ⟨.nnn, 4095⟩] : List Operand).all Operand.wf = true := by
  decide
theorem test_wf_refuses_x_16 : Operand.wf ⟨.x, 16⟩ = false := by decide
theorem test_wf_refuses_y_16 : Operand.wf ⟨.y, 16⟩ = false := by decide
theorem test_wf_refuses_n_16 : Operand.wf ⟨.n, 16⟩ = false := by decide
theorem test_wf_refuses_nn_256 : Operand.wf ⟨.nn, 256⟩ = false := by decide
theorem test_wf_refuses_nnn_4096 : Operand.wf ⟨.nnn, 4096⟩ = false := by decide

/-! ### Decoding: the words are written from the patterns of R78, with x = A, y = B, n = 5, nn = C3, nnn = A5C. -/

theorem test_decode_family0 :
    decode 0b0000000011100000#16 = .ok .cls ∧ decode 0b0000000011101110#16 = .ok .ret := by decide
theorem test_decode_families_1_to_7 :
    decode 0b0001101001011100#16 = .ok (.jp 0xA5C) ∧ decode 0b0010101001011100#16 = .ok (.call 0xA5C) ∧
    decode 0b0011101011000011#16 = .ok (.seImm 0xA 0xC3) ∧ decode 0b0100101011000011#16 = .ok (.sneImm 0xA 0xC3) ∧
    decode 0b0101101010110000#16 = .ok (.seReg 0xA 0xB) ∧ decode 0b0110101011000011#16 = .ok (.ldImm 0xA 0xC3) ∧
    decode 0b0111101011000011#16 = .ok (.addImm 0xA 0xC3) := by decide
theorem test_decode_family8 :
    decode 0b1000101010110000#16 = .ok (.ldReg 0xA 0xB) ∧ decode 0b1000101010110001#16 = .ok (.orReg 0xA 0xB) ∧
    decode 0b1000101010110010#16 = .ok (.andReg 0xA 0xB) ∧ decode 0b1000101010110011#16 = .ok (.xorReg 0xA 0xB) ∧
    decode 0b1000101010110100#16 = .ok (.addReg 0xA 0xB) ∧ decode 0b1000101010110101#16 = .ok (.subReg 0xA 0xB) ∧
    decode 0b1000101010110110#16 = .ok (.shr 0xA 0xB) ∧ decode 0b1000101010110111#16 = .ok (.subnReg 0xA 0xB) ∧
    decode 0b1000101010111110#16 = .ok (.shl 0xA 0xB) := by decide
theorem test_decode_families_9_to_D :
    decode 0b1001101010110000#16 = .ok (.sneReg 0xA 0xB) ∧ decode 0b1010101001011100#16 = .ok (.ldI 0xA5C) ∧
    decode 0b1011101001011100#16 = .ok (.jpV0 0xA5C) ∧ decode 0b1100101011000011#16 = .ok (.rnd 0xA 0xC3) ∧
    decode 0b1101101010110101#16 = .ok (.drw 0xA 0xB 5) := by decide
theorem test_decode_family_E :
    decode 0b1110101010011110#16 = .ok (.skp 0xA) ∧ decode 0b1110101010100001#16 = .ok (.sknp 0xA) := by decide
theorem test_decode_family_F :
    decode 0b1111101000000111#16 = .ok (.ldVxDT 0xA) ∧ decode 0b1111101000001010#16 = .ok (.ldVxK 0xA) ∧
    decode 0b1111101000010101#16 = .ok (.ldDTVx 0xA) ∧ decode 0b1111101000011000#16 = .ok (.ldSTVx 0xA) ∧
    decode 0b1111101000011110#16 = .ok (.addI 0xA) ∧ decode 0b1111101000101001#16 = .ok (.ldF 0xA) ∧
    decode 0b1111101000110011#16 = .ok (.ldB 0xA) ∧ decode 0b1111101001010101#16 = .ok (.storeRegs 0xA) ∧
    decode 0b1111101001100101#16 = .ok (.loadRegs 0xA) := by decide
/-- V5 to V10 and E9: words that no row matches. -/
theorem test_decode_unknown : ([0x0000, 0x000E, 0x0123, 0x8008, 0x800F, 0x9121, 0xE000, 0xE09F, 0xF000, 0xF0FF, 0x5555] : List Word).all
    (fun w => decide (decode w = .error (.unknownOpcode w))) = true := by decide
theorem test_decode_bytes_high_first : decodeBytes [0x60, 0x05, 0xAA] = .ok (.ldImm 0 5, [0xAA]) := by decide
theorem test_decode_table_word : decodeTableWord 16 0xD125 = some (.drw 1 2 5) ∧ decodeTableWord 16 0x5555 = none := by decide

/-! ### Single steps. -/

/-- The next state, where there is one. -/
def nextOf : Host.Outcome State Fault Refusal → Option State
  | .next t => some t
  | _ => none

/-- The state after one step on an opcode placed at PC. -/
def after (s : State) (w : Nat) : Option State := nextOf (step (s.withFetchWord 16 w))

/-- What a fault of an opcode leaves to see: HALTED, FAULT_CODE, FAULT_ADDR, FAULT_OP and its valid bit, PC. -/
def fault (t : State) : Bool × BitVec 3 × Word × Word × Bool × Word :=
  (t.halted, t.faultCode, t.faultAddr, t.faultOp, t.faultOpValid, t.pc)

/-- The power-on state with I set. -/
def atI (w : Word) : State := State.reset.setI w

/-- V82. -/
theorem test_cls : (after (State.reset.setDisp (togglePixel Display.blank 5 5).1) 0x00E0).map (·.disp) = some Display.blank := by decide
/-- V13. -/
theorem test_ret : (after { State.reset with sp := 1, stack := State.reset.stack.set 0 0x300 } 0x00EE).map
    (fun t => (t.sp, t.pc, t.stack[0])) = some (0, 0x302, 0x300) := by decide
/-- V14. -/
theorem test_ret_underflow : (after State.reset 0x00EE).map fault = some (true, 5, 0x200, 0x00EE, true, 0x200) := by decide
/-- E7. -/
theorem test_jp : (after State.reset 0x1300).map (fun t => (t.pc, t.sp)) = some (0x300, 0) := by decide
/-- V12. -/
theorem test_call : (after State.reset 0x2ABC).map (fun t => (t.stack[0], t.sp, t.pc)) = some (0x200, 1, 0xABC) := by decide
/-- V15. -/
theorem test_call_overflow : (after { State.reset with sp := 16 } 0x2300).map fault =
    some (true, 4, 0x200, 0x2300, true, 0x200) := by decide
/-- V20, V21. -/
theorem test_seImm : (after (State.reset.setV 3 0x42) 0x3342).map (·.pc) = some 0x204 ∧
    (after (State.reset.setV 3 0x42) 0x3343).map (·.pc) = some 0x202 := by decide
/-- V22, V23. -/
theorem test_sneImm : (after (State.reset.setV 3 0x42) 0x4342).map (·.pc) = some 0x202 ∧
    (after (State.reset.setV 3 0x42) 0x4343).map (·.pc) = some 0x204 := by decide
/-- V24, V25. -/
theorem test_seReg : (after ((State.reset.setV 1 7).setV 2 7) 0x5120).map (·.pc) = some 0x204 ∧
    (after ((State.reset.setV 1 7).setV 2 8) 0x5120).map (·.pc) = some 0x202 := by decide
/-- V26, V27. -/
theorem test_sneReg : (after ((State.reset.setV 1 7).setV 2 8) 0x9120).map (·.pc) = some 0x204 ∧
    (after ((State.reset.setV 1 7).setV 2 7) 0x9120).map (·.pc) = some 0x202 := by decide
/-- V35. -/
theorem test_ldImm : (after State.reset 0x6AFF).map (fun t => (t.getV 0xA, t.pc)) = some (0xFF, 0x202) := by decide
/-- V37. -/
theorem test_addImm : (after ((State.reset.setV 0 0xFF).setV 0xF 0x77) 0x7001).map (fun t => (t.getV 0, t.getV 0xF)) =
    some (0, 0x77) := by decide
/-- V38. -/
theorem test_ldReg : (after (State.reset.setV 2 0x55) 0x8120).map (·.getV 1) = some 0x55 := by decide
/-- V39. -/
theorem test_orReg : (after (((State.reset.setV 1 0xF0).setV 2 0x0F).setV 0xF 0x77) 0x8121).map
    (fun t => (t.getV 1, t.getV 0xF)) = some (0xFF, 0x77) := by decide
/-- V40. -/
theorem test_andReg : (after (((State.reset.setV 1 0xF0).setV 2 0x3C).setV 0xF 0x77) 0x8122).map
    (fun t => (t.getV 1, t.getV 0xF)) = some (0x30, 0x77) := by decide
/-- V41. -/
theorem test_xorReg : (after (((State.reset.setV 1 0xF0).setV 2 0x3C).setV 0xF 0x77) 0x8123).map
    (fun t => (t.getV 1, t.getV 0xF)) = some (0xCC, 0x77) := by decide
/-- V45. -/
theorem test_addReg : (after ((State.reset.setV 0 0xC8).setV 1 0x64) 0x8014).map (fun t => (t.getV 0, t.getV 0xF)) =
    some (0x2C, 1) := by decide
/-- V60: y = F. -/
theorem test_addReg_vf : (after ((State.reset.setV 0 0x10).setV 0xF 0xF0) 0x80F4).map (fun t => (t.getV 0, t.getV 0xF)) =
    some (0, 1) := by decide
/-- V47. -/
theorem test_subReg : (after ((State.reset.setV 0 3).setV 1 5) 0x8015).map (fun t => (t.getV 0, t.getV 0xF)) =
    some (0xFE, 0) := by decide
/-- V61: x = F. -/
theorem test_subReg_vf : (after ((State.reset.setV 0xF 5).setV 1 2) 0x8F15).map (·.getV 0xF) = some 1 := by decide
/-- V52. -/
theorem test_shr : (after ((State.reset.setV 0 5).setV 1 0x99) 0x8016).map (fun t => (t.getV 0, t.getV 1, t.getV 0xF)) =
    some (2, 0x99, 1) := by decide
/-- V51. -/
theorem test_subnReg : (after ((State.reset.setV 0 5).setV 1 3) 0x8017).map (fun t => (t.getV 0, t.getV 0xF)) =
    some (0xFE, 0) := by decide
/-- V55. -/
theorem test_shl : (after (State.reset.setV 0 0x81) 0x801E).map (fun t => (t.getV 0, t.getV 0xF)) = some (2, 1) := by decide
/-- V62: the RND of the STEP is AB. -/
theorem test_rnd : (nextOf (step { State.reset.withFetchWord 16 0xC00F with hostOps := [.step 0xAB] })).map (·.getV 0) = some 0x0B := by
  decide
/-- V64. -/
theorem test_ldI : (after State.reset 0xA123).map (fun t => (t.i, t.pc)) = some (0x123, 0x202) := by decide
/-- V18. -/
theorem test_jpV0 : (after (State.reset.setV 0 0xFF) 0xBFFF).map (·.pc) = some 0x10FE := by decide
/-- V66. -/
theorem test_addI : (after ((atI 0xFFFF).setV 0 2) 0xF01E).map (·.i) = some 1 := by decide
/-- V68. -/
theorem test_ldF : (after (State.reset.setV 0 0x1B) 0xF029).map (·.i) = some 0x37 := by decide
/-- E4. -/
theorem test_ldB : (after ((atI 0x300).setV 2 157) 0xF233).map
    (fun t => ([0x300, 0x301, 0x302].map t.byteAt, t.i, t.pc)) = some ([1, 5, 7], 0x300, 0x202) := by decide
/-- V73. -/
theorem test_ldB_outside : (after ((atI 0xFFE).setV 0 0x9D) 0xF033).map fault = some (true, 3, 0x1000, 0xF033, true, 0x200) ∧
    (after ((atI 0xFFE).setV 0 0x9D) 0xF033).map (fun t => t.byteAt 0xFFE) = some 0 := by decide
/-- V75. -/
theorem test_storeRegs : (after ((((atI 0x300).setV 0 0x11).setV 1 0x22).setV 2 0x33) 0xF255).map
    (fun t => ([0x300, 0x301, 0x302, 0x303].map t.byteAt, t.i)) = some ([0x11, 0x22, 0x33, 0], 0x300) := by decide
/-- V77. -/
theorem test_storeRegs_outside : (after ((atI 0xFFF).setV 0 7) 0xF155).map fault = some (true, 3, 0x1000, 0xF155, true, 0x200) ∧
    (after ((atI 0xFFF).setV 0 7) 0xF155).map (fun t => t.byteAt 0xFFF) = some 0 := by decide
/-- V79: the glyph of 0. -/
theorem test_loadRegs : (after State.reset 0xF465).map (fun t => [0, 1, 2, 3, 4, 5].map (t.getV ·)) =
    some [0xF0, 0x90, 0x90, 0x90, 0xF0, 0] := by decide
/-- V80. -/
theorem test_loadRegs_outside : (after (atI 0xFFF) 0xF165).map fault = some (true, 3, 0x1000, 0xF165, true, 0x200) := by decide
/-- V92: the left pixel is set, the right one cleared with a collision. -/
theorem test_drw : (after { atI 0x300 with mem := [(0x300, 0xC0)], disp := (togglePixel Display.blank 1 0).1 } 0xD011).map
    (fun t => (Display.pixel t.disp 0 0, Display.pixel t.disp 1 0, t.getV 0xF)) = some (true, false, 1) := by decide
/-- V87: the row wraps to column 0. -/
theorem test_drw_wraps : (after (({ atI 0x300 with mem := [(0x300, 0xC0)] } : State).setV 0 63) 0xD011).map
    (fun t => (t.disp[0], t.getV 0xF)) = some (0x8000000000000001, 0) := by decide
/-- V28, V29. -/
theorem test_skp : (after ((opSetKey 0xA true State.reset).setV 5 0xA) 0xE59E).map (·.pc) = some 0x204 ∧
    (after (State.reset.setV 5 0xA) 0xE59E).map (·.pc) = some 0x202 := by decide
/-- V30, V31. -/
theorem test_sknp : (after (State.reset.setV 5 0xA) 0xE5A1).map (·.pc) = some 0x204 ∧
    (after ((opSetKey 0xA true State.reset).setV 5 0xA) 0xE5A1).map (·.pc) = some 0x202 := by decide
/-- V93. -/
theorem test_ldVxDT : (after (State.reset.setDt 0x2A) 0xF307).map (·.getV 3) = some 0x2A := by decide
/-- V98. -/
theorem test_ldVxK_waits : (after State.reset 0xF20A).map (fun t => (t.pc, t.getV 2)) = some (0x200, 0) := by decide
/-- V99. -/
theorem test_ldVxK : (after (opSetKey 9 true (opSetKey 7 true State.reset)) 0xF20A).map (fun t => (t.getV 2, t.pc)) =
    some (7, 0x202) := by decide
/-- V94. -/
theorem test_ldDTVx : (after (State.reset.setV 0 3) 0xF015).map (·.dt) = some 3 := by decide
/-- V95. -/
theorem test_ldSTVx : (after (State.reset.setV 1 5) 0xF118).map (fun t => (t.st, soundActive t)) = some (5, true) := by decide

/-! ### The operations of the host. -/

/-- V2: a fetch whose second byte is outside memory. -/
theorem test_fetch_outside : (nextOf (step { State.reset with pc := 0xFFF })).map fault = some (true, 3, 0x1000, 0, false, 0xFFF) := by
  decide
/-- V102, V104. -/
theorem test_tick : (nextOf (step { State.reset with st := 1, dt := 5, hostOps := [.tick] })).map (fun t => (t.dt, t.st)) = some (4, 0) ∧
    tickToneEnd { State.reset with st := 1 } = true ∧ tickToneEnd { State.reset with st := 1, halted := true } = false := by decide
/-- E6, before the STEP. -/
theorem test_load : (nextOf (step { State.reset with hostOps := [.load [0x60, 0x05]] })).map (fun t => (t.mem, t.pc)) =
    some ([(0x200, 0x60), (0x201, 0x05)], 0x200) := by decide
/-- E10. -/
theorem test_load_too_large : (loadStatus (List.replicate 3585 0) = .loadTooLarge) ∧ loadStatus (List.replicate 3584 0) = .ok := by
  simp only [loadStatus, Config.maxProgLen, List.length_replicate]; decide
set_option maxRecDepth 4000 in
/-- A core with another FONT: power-on and RESET load that one (R35, R159, R160). -/
theorem test_font_parameter : (State.powerOn (Vector.replicate 80 0xAA)).byteAt 79 = 0xAA ∧
    (nextOf (step { State.powerOn (Vector.replicate 80 0xAA) with mem := [(0, 1)], hostOps := [.reset] })).map
      (fun t => (t.byteAt 0, t.byteAt 80)) = some (0xAA, 0) := by decide
set_option maxRecDepth 4000 in
/-- V105, in part. -/
theorem test_reset : (nextOf (step { State.reset with
    halted := true, faultCode := 4, sp := 16, mem := [(0x20, 4), (0x50, 3)], hostOps := [.reset] })).map
    (fun t => (t.halted, t.faultCode, t.sp, t.mem)) = some (false, 0, 0, [(0x50, 3)]) := by decide

/-! ### A witness for every statement with hypotheses: a state and operands that meet them, at the edges of their ranges. -/

theorem witness_InstructionsAreTwoBytesHighFirst : decodeBytes [0x00, 0xE0] = .ok (.cls, []) := by decide

theorem witness_OneInstructionFamiliesDecodeWhole :
    ([0x1FFF, 0x2000, 0x3FFF, 0x4000, 0x6FFF, 0x7000, 0xAFFF, 0xB000, 0xCFFF, 0xD000] : List Word).map (fun op => op.toNat / 4096) =
      [0x1, 0x2, 0x3, 0x4, 0x6, 0x7, 0xA, 0xB, 0xC, 0xD] := by decide

theorem witness_SecondLevelKeysDecode :
    ([0x00E0, 0x00EE, 0x0FFF] : List Word).map (fun op => (op.toNat / 4096, op.toNat % 4096)) =
      [(0, 0x0E0), (0, 0x0EE), (0, 0xFFF)] ∧
    ([0x5FF0, 0x500F, 0x9FF0, 0x900F] : List Word).map (fun op => (op.toNat / 4096, op.toNat % 16)) =
      [(5, 0), (5, 15), (9, 0), (9, 15)] ∧
    ([0x8000, 0x8011, 0x8022, 0x8033, 0x8044, 0x8055, 0x8066, 0x8077, 0x808E, 0x8008, 0x800F] : List Word).map
      (fun op => (op.toNat / 4096, op.toNat % 16)) =
      [(8, 0), (8, 1), (8, 2), (8, 3), (8, 4), (8, 5), (8, 6), (8, 7), (8, 0xE), (8, 8), (8, 0xF)] ∧
    ([0xE09E, 0xEFA1, 0xE09F] : List Word).map (fun op => (op.toNat / 4096, op.toNat % 256)) =
      [(0xE, 0x9E), (0xE, 0xA1), (0xE, 0x9F)] ∧
    ([0xFF07, 0xFF0A, 0xFF15, 0xFF18, 0xFF1E, 0xFF29, 0xFF33, 0xFF55, 0xFF65, 0xF000] : List Word).map
      (fun op => (op.toNat / 4096, op.toNat % 256)) =
      [(0xF, 0x07), (0xF, 0x0A), (0xF, 0x15), (0xF, 0x18), (0xF, 0x1E), (0xF, 0x29), (0xF, 0x33), (0xF, 0x55), (0xF, 0x65), (0xF, 0)] := by
  decide

theorem witness_DecodeSelectsTheMatchingRow :
    (Instr.shr 0xA 0xB).row ∈ opcodeRows ∧ 0x8AB6#16 &&& (Instr.shr 0xA 0xB).row.mask = (Instr.shr 0xA 0xB).row.bits ∧
    decode 0x8AB6#16 = .ok (.shr 0xA 0xB) ∧ ∀ r ∈ opcodeRows, 0x5555#16 &&& r.mask ≠ r.bits := by decide

theorem witness_EncodeOfDecode : decode 0xDAB5#16 = .ok (.drw 0xA 0xB 5) := by decide

theorem witness_FieldsAreTheDocumentsExtractions : decode 0xDAB5#16 = .ok (.drw 0xA 0xB 5) ∧
    (Instr.drw 0xA 0xB 5).operands = [⟨.x, 0xA⟩, ⟨.y, 0xB⟩, ⟨.n, 5⟩] := by decide

/-- A state whose next fetch reads 12 00 at the last address a fetch may start at (V1). -/
def lastFetch : State := { State.reset with pc := 0xFFE, mem := [(0xFFE, 0x12)] }

theorem witness_FetchReadsTwoBytesAtPc : (0xFFE ≤ 0xFFE) ∧ (lastFetch.halted = false ∧ lastFetch.pc.toNat ≤ 0xFFE) ∧
    (let s : State := { State.reset with pc := 0xFFF, hostOps := [.step 7] };
      s.hostOps = .step 7 :: [] ∧ s.halted = false ∧ 0xFFF ≤ s.pc.toNat) ∧
    (let s : State := { State.reset with pc := 0xFFF }; s.hostOps = [] ∧ s.halted = false ∧ 0xFFF ≤ s.pc.toNat) ∧
    (let s : State := { State.reset with pc := 0xFFFF }; s.hostOps = [] ∧ s.halted = false ∧ 0xFFF ≤ s.pc.toNat) := by decide

theorem witness_StepRunsTheDecodedInstruction : lastFetch.halted = false ∧ lastFetch.pc.toNat ≤ 0xFFE ∧
    decodeBytes [lastFetch.byteAt lastFetch.pc.toNat, lastFetch.byteAt (lastFetch.pc.toNat + 1)] = .ok (.jp 0x200, []) ∧
    lastFetch.hostOps = [] ∧ (lastFetch.withHostOps [.step 0xAB]).hostOps = .step 0xAB :: [] := by decide

/-- Power-on memory holds 0000 at the PC, and 0000 is no instruction. -/
theorem witness_UnknownOpcodeIsReportedAndSkipped : State.reset.hostOps = [] ∧
    (State.reset.withHostOps [.step 7]).hostOps = .step 7 :: [] ∧ State.reset.halted = false ∧ State.reset.pc.toNat ≤ 0xFFE ∧
    fetch State.reset.font State.reset.mem State.reset.pc.toNat = .ok 0x0000#16 ∧ ∀ r ∈ opcodeRows, 0x0000#16 &&& r.mask ≠ r.bits := by decide

/-- A halted state (V11). -/
def haltedState : State := { State.reset with halted := true, faultCode := 4, faultAddr := 0x200, faultOp := 0x2200, faultOpValid := true }

theorem witness_HaltedCoreIgnoresStepAndTick : haltedState.halted = true ∧ haltedState.hostOps = [] ∧
    (haltedState.withHostOps [.step 7]).hostOps = .step 7 :: [] ∧ (haltedState.withHostOps [.tick]).hostOps = .tick :: [] := by decide

theorem witness_SequentialInstructionsAdvanceByTwo :
    sequential .cls = true ∧ lastFetch.halted = false ∧ lastFetch.pc.toNat ≤ 0xFFE ∧
    (nextOf (exec .cls lastFetch)).map (·.halted) = some false ∧
    (sequential (.ldVxK 0) = true ∧ ∃ k : Reg, (opSetKey 0xF true State.reset).key[k.val] = true) := by decide

theorem witness_FatalFaultsArePrecise :
    ((nextOf (exec (.ldB 0) (atI 0xFFE))).map (fun t => (t.halted, t.faultCode)) = some (true, 3) ∧ (atI 0xFFE).halted = false) ∧
    (nextOf (exec (.call 0x300) { State.reset with sp := 16 })).map (fun t => (t.halted, t.faultCode)) = some (true, 4) ∧
    (nextOf (exec .ret State.reset)).map (fun t => (t.halted, t.faultCode)) = some (true, 5) := by decide

theorem witness_JpSetsPcOnly : 0x1FFF#16 &&& 0xF000#16 = 0x1000#16 := by decide

theorem witness_CallPushesItsAddressOrOverflows : State.reset.sp.val < 16 ∧ ({ State.reset with sp := 15 } : State).sp.val < 16 ∧
    ({ State.reset with sp := 16 } : State).sp = 16 := by decide

theorem witness_RetContinuesAfterTheCallOrUnderflows : ({ State.reset with sp := 1 } : State).sp.val = (0 : Fin 16).val + 1 ∧
    ({ State.reset with sp := 16 } : State).sp.val = (15 : Fin 16).val + 1 ∧ State.reset.sp = 0 := by decide

/-- The body is the state after the CALL. -/
theorem witness_CallThenRetReturns : ({ State.reset with sp := 15 } : State).sp.val < 16 ∧
    ∃ t, exec (.call 0x300) { State.reset with sp := 15 } = .next t ∧ t.sp = t.sp ∧ t.stack = t.stack := ⟨by decide, _, rfl, rfl, rfl⟩

theorem witness_SkipsOnComparison : 0x3FFF#16 &&& 0xF000#16 = 0x3000#16 ∧ 0x4FFF#16 &&& 0xF000#16 = 0x4000#16 ∧
    0x5FF0#16 &&& 0xF00F#16 = 0x5000#16 ∧ (0x5555#16 &&& 0xF000#16 = 0x5000#16 ∧ 0x5555#16 &&& 0xF00F#16 ≠ 0x5000#16) := by decide

theorem witness_KeySkipsReadTheLevel : ((State.reset.setV 5 0).getV 5).toNat = (0 : Reg).val ∧
    ((State.reset.setV 5 0xF).getV 5).toNat = (0xF : Reg).val := by decide

theorem witness_KeySkipsFaultAboveF : 0xF < ((State.reset.setV 5 0x10).getV 5).toNat ∧
    0xF < ((State.reset.setV 5 0xFF).getV 5).toNat := by decide

theorem witness_LoadImmediate : 0x6FFF#16 &&& 0xF000#16 = 0x6000#16 := by decide

theorem witness_AddImmediateWraps : 0x7FFF#16 &&& 0xF000#16 = 0x7000#16 := by decide

theorem witness_AddSetsCarry : (0xE : Reg) ≠ regF := by decide

theorem witness_SubtractionsSetNoBorrow : (0 : Reg) ≠ regF := by decide

theorem witness_ShiftsByOneSetTheBitOut : (0xE : Reg) ≠ regF := by decide

theorem witness_RndMasksTheRandomByte : ({ State.reset with rnd := some 0xAB } : State).rnd = some 0xAB ∧
    (let s : State := { State.reset.withFetchWord 16 0xC00F with hostOps := [.step 0xAB] };
      s.hostOps = .step 0xAB :: [] ∧ s.halted = false ∧ fetch s.font s.mem s.pc.toNat = .ok (encode (.rnd 0 0x0F))) := by decide

theorem witness_LoadIndex : 0xAFFF#16 &&& 0xF000#16 = 0xA000#16 := by decide

theorem witness_BcdStoresThreeDigits : (0x200 ≤ (atI 0x200).indexAddr ∧ (atI 0x200).indexAddr + 2 < 0x1000) ∧
    0x200 ≤ (atI 0xFFD).indexAddr ∧ (atI 0xFFD).indexAddr + 2 < 0x1000 := by decide

theorem witness_StoreRegsStoresV0ToVx : (0x200 ≤ (atI 0x200).indexAddr ∧ (atI 0x200).indexAddr + (0xF : Reg).val < 0x1000) ∧
    (0x200 ≤ (atI 0xFF0).indexAddr ∧ (atI 0xFF0).indexAddr + (0xF : Reg).val < 0x1000) ∧
    0x200 ≤ (atI 0xFFF).indexAddr ∧ (atI 0xFFF).indexAddr + (0 : Reg).val < 0x1000 := by decide

theorem witness_StoresOutsideProgramAreaFault : ((atI 0x1FF).indexAddr < 0x200 ∧ (atI 0).indexAddr < 0x200) ∧
    (0x1000 ≤ (atI 0xFFE).indexAddr + 2 ∧ 0x1000 ≤ (atI 0xFFFF).indexAddr + 2) ∧
    0x1000 ≤ (atI 0xFF1).indexAddr + (0xF : Reg).val ∧ 0x1000 ≤ (atI 0x1000).indexAddr + (0 : Reg).val := by decide

theorem witness_LoadRegsLoadsV0ToVx : (atI 0).indexAddr + (0xF : Reg).val < 0x1000 ∧ (atI 0xFF0).indexAddr + (0xF : Reg).val < 0x1000 ∧
    (atI 0xFFF).indexAddr + (0 : Reg).val < 0x1000 := by decide

theorem witness_LoadRegsBeyondMemoryFaults : 0x1000 ≤ (atI 0xFF1).indexAddr + (0xF : Reg).val ∧
    0x1000 ≤ (atI 0x1000).indexAddr + (0 : Reg).val ∧ 0x1000 ≤ (atI 0xFFFF).indexAddr + (0xF : Reg).val := by decide

/-- A state whose one-row sprite at 0x300 is a single pixel (V83). -/
def onePixelSprite : State := { atI 0x300 with mem := [(0x300, 0x80)] }

theorem witness_DrawXorsTheSpriteAndSetsCollision :
    (0#4 = 0 ∨ (atI 0xFFFF).indexAddr + (0#4).toNat ≤ 0x1000) ∧ (atI 0xFF1).indexAddr + (15#4).toNat ≤ 0x1000 ∧
    (∃ px py, drwBit onePixelSprite 0 1 1 px py = true ∧
      Display.pixel (onePixelSprite.setDisp (togglePixel Display.blank 0 0).1).disp px py = true) ∧
    ∀ px py, drwBit onePixelSprite 0 1 1 px py = true → Display.pixel onePixelSprite.disp px py = false :=
  ⟨.inl rfl, by decide, ⟨0, 0, by decide, by decide⟩, fun px py _ => by simp [onePixelSprite, atI, State.reset, Display.pixel]⟩

theorem witness_ClsClearsEveryPixel :
    (let s := (State.reset.setDisp (togglePixel Display.blank 5 5).1).withFetchWord 16 0x00E0;
      s.halted = false ∧ fetch s.font s.mem s.pc.toNat = .ok 0x00E0#16 ∧ Display.pixel s.disp 5 5 = true) ∧
    (let s := State.reset.withFetchWord 16 0x00E0; s.halted = false ∧ fetch s.font s.mem s.pc.toNat = .ok 0x00E0#16) := by decide

theorem witness_DrawBeyondMemoryFaults : (2#4 ≠ 0 ∧ 0x1000 < (atI 0xFFF).indexAddr + (2#4).toNat) ∧ 1#4 ≠ 0 ∧
    0x1000 < (atI 0x1000).indexAddr + (1#4).toNat := by decide

/-- With x and y not F, and with x = F where the first draw leaves VF as it was. -/
theorem witness_DrawingTwiceRestoresTheDisplay : onePixelSprite.indexAddr + (1#4).toNat ≤ 0x1000 ∧
    (∃ t, exec (.drw 0 1 1) onePixelSprite = .next t ∧ t.getV 0 = onePixelSprite.getV 0 ∧ t.getV 1 = onePixelSprite.getV 1) ∧
    ∃ t, exec (.drw 0xF 0xF 1) onePixelSprite = .next t ∧ t.getV 0xF = onePixelSprite.getV 0xF :=
  ⟨by decide, ⟨_, rfl, by decide, by decide⟩, _, rfl, by decide⟩

theorem witness_DelayTimerIsReadAndWritten : 0xFF07#16 &&& 0xF0FF#16 = 0xF007#16 ∧ 0xFF15#16 &&& 0xF0FF#16 = 0xF015#16 := by decide

theorem witness_KeyWaitTakesTheLowestKeyOrWaits :
    (let s := State.reset.withFetchWord 16 0xF00A;
      s.halted = false ∧ fetch s.font s.mem s.pc.toNat = .ok (encode (.ldVxK 0)) ∧ ∀ k : Reg, s.key[k.val] = false) ∧
    (∀ k : Reg, State.reset.key[k.val] = false) ∧
    ((opSetKey 0 true State.reset).key[(0 : Reg).val] = true ∧ ∀ j : Reg, j < 0 → (opSetKey 0 true State.reset).key[j.val] = false) ∧
    ((opSetKey 0xF true State.reset).key[(0xF : Reg).val] = true ∧
      ∀ j : Reg, j < 0xF → (opSetKey 0xF true State.reset).key[j.val] = false) := by decide

theorem witness_MemoryChangesOnlyWhereStored :
    (∃ t, exec (.ldB 0) (atI 0x300) = .next t) ∧ 0x2FF < (atI 0x300).indexAddr ∧
    (atI 0x300).indexAddr + (storedBytes (.ldB 0) (atI 0x300)).length ≤ 0x303 ∧
    (atI 0x300).indexAddr + (storedBytes .cls (atI 0x300)).length ≤ 0x300 := ⟨⟨_, rfl⟩, by decide, by decide, by decide⟩

theorem witness_EachRegisterHasItsWriters : ∃ t, exec (.loadRegs 2) State.reset = .next t := ⟨_, rfl⟩

theorem witness_StepReportsHaveTheirCauses :
    (let s : State := { (State.reset.setSt 5).withFetchWord 16 0xF018 with hostOps := [.step 7] };
      s.hostOps = .step 7 :: [] ∧ (nextOf (step s)).map (fun t => (stepResult s t).toneEnd) = some true) ∧
    (let s := (State.reset.setDisp (togglePixel Display.blank 5 5).1).withFetchWord 16 0x00E0;
      s.hostOps = [] ∧ (nextOf (step s)).map (fun t => (stepResult s t).displayChanged) = some true) ∧
    (let s := (State.reset.setSt 5).withFetchWord 16 0xF018;
      s.hostOps = [] ∧ (nextOf (step s)).map (fun t => (stepResult s t).toneEnd) = some true) := by decide

theorem witness_TickDecrementsTheTimers : (State.reset.withHostOps [.tick]).hostOps = .tick :: [] ∧
    (State.reset.withHostOps [.tick]).halted = false ∧ (haltedState.withHostOps [.tick]).halted = true ∧
    (haltedState.withHostOps [.tick]).hostOps = .tick :: [] := by decide

theorem witness_ResetReinitialisesAllButProgramAndKeys : (haltedState.withHostOps [.reset]).hostOps = .reset :: [] ∧ 79 < 80 ∧ 80 ≤ 80 := by
  decide

/-- One cycle's RESET, LOAD, SET_KEY, STEP and TICK. -/
def fullCycle : Presented := ⟨true, some [0x00, 0xE0], (Vector.replicate 16 none).set 0xF (some true), some 7, true⟩

theorem witness_PresentedOperationsAreInOrder :
    presentedOps fullCycle = [.reset, .load [0x00, 0xE0], .setKey 0xF true, .step 7, .tick] ∧
    (State.reset.withHostOps (presentedOps fullCycle)).hostOps = presentedOps fullCycle ∧
    (State.reset.withHostOps [.tick, .reset]).hostOps = .tick :: [.reset] := by decide

theorem witness_LoadCopiesTheProgram :
    ((State.reset.withHostOps [.load (List.replicate 3584 1)]).hostOps = .load (List.replicate 3584 1) :: [] ∧
      (List.replicate 3584 (1 : Byte)).length ≤ 3584 ∧ 3583 < (List.replicate 3584 (1 : Byte)).length) ∧
    3584 < (List.replicate 3585 (1 : Byte)).length := by
  simp only [List.length_replicate]; exact ⟨⟨rfl, by decide, by decide⟩, by decide⟩

theorem witness_SetKeySetsOneFlag : (haltedState.withHostOps [.setKey 0xF true]).hostOps = .setKey 0xF true :: [] ∧ (0 : Reg) ≠ 0xF := by
  decide

/-- A state at the edges of the invariant: the highest PC, a full stack, memory changed at both ends of the program area. -/
def edgeState : State :=
  { State.reset with pc := 0x10FE, sp := 16, stack := Vector.replicate 16 0x0FFE, mem := [(0x200, 1), (0xFFF, 5)] }

theorem witness_EveryStepKeepsTheInvariant : edgeState.Inv ∧ ∃ t, step edgeState = .next t := by
  refine ⟨⟨by decide, fun a ha => ?_, by decide, by decide, ⟨by decide, by decide, by decide⟩⟩, _, rfl⟩
  have h1 : ¬ 0x200 = a := by simp only [Config.progBase] at ha; omega
  have h2 : ¬ 0xFFF = a := by simp only [Config.progBase] at ha; omega
  simp only [State.byteAt, edgeState, Memory.read, h1, h2, if_false]

/-- A STEP that completes, one that waits, and one that halts. -/
theorem witness_StepResultReportsTheInstruction :
    (let s := State.reset.withFetchWord 16 0x00E0;
      NextIsStep s ∧ s.halted = false ∧ fetch s.font s.mem s.pc.toNat = .ok (encode .cls) ∧
      (nextOf (step s)).map (·.halted) = some false ∧ ¬ Waits .cls s) ∧
    (let s := State.reset.withFetchWord 16 0xF00A;
      fetch s.font s.mem s.pc.toNat = .ok (encode (.ldVxK 0)) ∧ (nextOf (step s)).map (·.halted) = some false ∧ Waits (.ldVxK 0) s) ∧
    (let s : State := { State.reset.withFetchWord 16 0x00EE with hostOps := [.step 7] };
      NextIsStep s ∧ fetch s.font s.mem s.pc.toNat = .ok (encode .ret) ∧ (nextOf (step s)).map (·.halted) = some true) := by
  refine ⟨⟨.inl rfl, by decide, by decide, by decide, fun h => ?_⟩, ⟨by decide, by decide, ⟨⟨0, rfl⟩, by decide⟩⟩,
    .inr ⟨7, [], rfl⟩, by decide, by decide⟩
  obtain ⟨⟨x, h⟩, _⟩ := h
  cases h

theorem witness_OnlyResetLeavesTheHalt : haltedState.halted = true ∧ HostOp.reset ∉ (haltedState.withHostOps [.tick]).hostOps ∧
    ∃ t, Sys2Proof.core.run 1 (haltedState.withHostOps [.tick]) = .next t := by
  refine ⟨by decide, by decide, opTick (haltedState.withHostOps []), ?_⟩
  rw [run_next 0 (t := opTick (haltedState.withHostOps [])) rfl, run_zero]

end Sys2Proof.Tests
end

section
/-! Encoding: an instruction's two bytes (R71), its fields (R73), and the families of one instruction (R75). -/

namespace Sys2Proof

open Sys2Proof.Claim

/-! ### Two bytes, high byte first (R71). -/

/-- What decoding two bytes and more can answer: the instruction of their opcode, and the bytes after the two. -/
theorem decodeBytes_eq_ok_iff (hi lo : Byte) (rest after : List Byte) (i : Instr) :
    decodeBytes (hi :: lo :: rest) = .ok (i, after) ↔ decode (wordOfBytes hi lo) = .ok i ∧ after = rest := by
  rw [decodeBytes]
  cases decode (wordOfBytes hi lo) with
  | ok j => simp [eq_comm]
  | error r => simp

theorem wordOfBytes_eq_ofNat (hi lo : Byte) : wordOfBytes hi lo = BitVec.ofNat 16 (hi.toNat * 256 + lo.toNat) := by
  rw [← wordOfBytes_toNat, BitVec.ofNat_toNat, BitVec.setWidth_eq]

/-- Settles O1: the bytes decode as the word of their number does, and what is left over is fixed. -/
theorem instructionsAreTwoBytesHighFirst : Obligations.InstructionsAreTwoBytesHighFirst := by
  refine ⟨fun hi lo rest i => ?_, fun hi lo rest i after h => ?_, fun _ => rfl, rfl⟩
  · rw [decodeBytes_eq_ok_iff, wordOfBytes_eq_ofNat, and_iff_left rfl]
  · exact ((decodeBytes_eq_ok_iff hi lo rest after i).mp h).2

/-! ### Operands are fields of the descriptor (R73). -/

/-- Every one of these operands holds the value of the descriptor's field it is named after. -/
def OperandsFrom (d : Descriptor) (ops : List Operand) : Prop := ∀ o ∈ ops, o.value = fieldValue d o.field

/-- An answer of the decoder is no instruction, or one whose operands are the descriptor's fields. -/
def AnswersFrom (d : Descriptor) (r : Except Rejection Instr) : Prop := ∀ i, r = .ok i → OperandsFrom d i.operands

@[simp] theorem answersFrom_ok (d : Descriptor) (i : Instr) : AnswersFrom d (.ok i) ↔ OperandsFrom d i.operands := by
  simp [AnswersFrom]

@[simp] theorem answersFrom_error (d : Descriptor) (e : Rejection) : AnswersFrom d (.error e) := by
  simp [AnswersFrom]

/-- An answer that stands in a list of keys and answers has what they all have. -/
theorem AnswersFrom.of_mem {d : Descriptor} {w : Nat} {key : BitVec w} {r : Except Rejection Instr}
    {table : List (BitVec w × Except Rejection Instr)} (h : (key, r) ∈ table)
    (hall : ∀ p ∈ table, AnswersFrom d p.2) : AnswersFrom d r :=
  hall _ h

/-! The formats of R72, filled from a descriptor. -/

@[simp] theorem operandsFrom_nil (d : Descriptor) : OperandsFrom d [] := by
  simp [OperandsFrom]

@[simp] theorem operandsFrom_nnn (d : Descriptor) : OperandsFrom d (operandsNNN d.nnn) := by
  simp [OperandsFrom, operandsNNN, fieldValue]

@[simp] theorem operandsFrom_xnn (d : Descriptor) : OperandsFrom d (operandsXNN d.x d.nn) := by
  simp [OperandsFrom, operandsXNN, fieldValue]

@[simp] theorem operandsFrom_xy (d : Descriptor) : OperandsFrom d (operandsXY d.x d.y) := by
  simp [OperandsFrom, operandsXY, fieldValue]

@[simp] theorem operandsFrom_xyn (d : Descriptor) : OperandsFrom d (operandsXY d.x d.y ++ [⟨.n, d.n.toNat⟩]) := by
  simp [OperandsFrom, operandsXY, fieldValue]

@[simp] theorem operandsFrom_x (d : Descriptor) : OperandsFrom d (operandsX d.x) := by
  simp [OperandsFrom, operandsX, fieldValue]

/-! The second levels of the decoder, by what each can answer (R76). -/

theorem decode0_answersFrom (op : Word) (d : Descriptor) : AnswersFrom d (decode0 op d) := by
  obtain ⟨h, -⟩ | h := decode0_cases op d
  · rw [h]; exact answersFrom_error d _
  · exact .of_mem h (by simp [Instr.operands])

theorem decode8_answersFrom (op : Word) (d : Descriptor) : AnswersFrom d (decode8 op d) := by
  obtain ⟨h, -⟩ | h := decode8_cases op d
  · rw [h]; exact answersFrom_error d _
  · exact .of_mem h (by simp [Instr.operands])

theorem decodeE_answersFrom (op : Word) (d : Descriptor) : AnswersFrom d (decodeE op d) := by
  obtain ⟨h, -⟩ | h := decodeE_cases op d
  · rw [h]; exact answersFrom_error d _
  · exact .of_mem h (by simp [Instr.operands])

theorem decodeF_answersFrom (op : Word) (d : Descriptor) : AnswersFrom d (decodeF op d) := by
  obtain ⟨h, -⟩ | h := decodeF_cases op d
  · rw [h]; exact answersFrom_error d _
  · exact .of_mem h (by simp [Instr.operands])

/-- The families 5 and 9: one instruction at the low nibble 0. -/
theorem ite_answersFrom {c : Prop} [Decidable c] {d : Descriptor} {i : Instr} {e : Rejection}
    (h : OperandsFrom d i.operands) : AnswersFrom d (if c then .ok i else .error e) := by
  split
  · exact (answersFrom_ok d i).mpr h
  · exact answersFrom_error d e

/-- The decoder's answer, family by family (R75). -/
theorem decode_answersFrom (op : Word) : AnswersFrom (describe op) (decode op) := by
  have hlt : op.toNat / 4096 < 16 := by omega
  interval_cases hf : op.toNat / 4096
  · rw [decode_family0 op hf]; exact decode0_answersFrom op _
  · rw [decode_family1 op hf, answersFrom_ok]; exact operandsFrom_nnn _
  · rw [decode_family2 op hf, answersFrom_ok]; exact operandsFrom_nnn _
  · rw [decode_family3 op hf, answersFrom_ok]; exact operandsFrom_xnn _
  · rw [decode_family4 op hf, answersFrom_ok]; exact operandsFrom_xnn _
  · rw [decode_family5 op hf]; exact ite_answersFrom (operandsFrom_xy _)
  · rw [decode_family6 op hf, answersFrom_ok]; exact operandsFrom_xnn _
  · rw [decode_family7 op hf, answersFrom_ok]; exact operandsFrom_xnn _
  · rw [decode_family8 op hf]; exact decode8_answersFrom op _
  · rw [decode_family9 op hf]; exact ite_answersFrom (operandsFrom_xy _)
  · rw [decode_familyA op hf, answersFrom_ok]; exact operandsFrom_nnn _
  · rw [decode_familyB op hf, answersFrom_ok]; exact operandsFrom_nnn _
  · rw [decode_familyC op hf, answersFrom_ok]; exact operandsFrom_xnn _
  · rw [decode_familyD op hf, answersFrom_ok]; exact operandsFrom_xyn _
  · rw [decode_familyE op hf]; exact decodeE_answersFrom op _
  · rw [decode_familyF op hf]; exact decodeF_answersFrom op _

/-! The document's masks and shifts as the fields' quotients and remainders (R73). -/

/-- A mask of four bits moved up, then shifted down, is the nibble there. -/
theorem mask_nibble_toNat (op : Word) (s : Nat) (hs : s ≤ 12) :
    ((op &&& (0x000F#16 <<< s)) >>> s).toNat = op.toNat / 2 ^ s % 2 ^ 4 := by
  have hmask : (0x000F#16 <<< s) >>> s = BitVec.ofNat 16 (2 ^ 4 - 1) := by interval_cases s <;> rfl
  rw [BitVec.ushiftRight_and_distrib, hmask, mask_low, BitVec.toNat_ushiftRight, Nat.shiftRight_eq_div_pow]

/-- Settles O2: the operands by the decoder's families, the fields by what each is as a number. -/
theorem fieldsAreTheDocumentsExtractions : Obligations.FieldsAreTheDocumentsExtractions := by
  refine ⟨decode_answersFrom, fun op => ⟨?_, ?_, ?_, ?_, ?_, describe_family op⟩⟩
  · exact (describe_x op).trans (mask_nibble_toNat op 8 (by decide)).symm
  · exact (describe_y op).trans (mask_nibble_toNat op 4 (by decide)).symm
  · exact (describe_n op).trans (mask_low op 4).symm
  · exact (describe_nn op).trans (mask_low op 8).symm
  · exact (describe_nnn op).trans (mask_low op 12).symm

/-! ### Families of one instruction (R75). -/

/-- Settles O3: the decoder's answer at each of the ten families, whose immediates `describe` cuts from the opcode. -/
theorem oneInstructionFamiliesDecodeWhole : Obligations.OneInstructionFamiliesDecodeWhole := fun op =>
  ⟨decode_family1 op, decode_family2 op, decode_family3 op, decode_family4 op, decode_family6 op, decode_family7 op,
    decode_familyA op, decode_familyB op, decode_familyC op, decode_familyD op⟩

end Sys2Proof
end

section
/-! Control transfer: what a jump assigns to PC (R99). -/

namespace Sys2Proof.Machine

/-- An opcode that matches a row of the mask F000 is of the row's family (R75, R78). -/
theorem family_of_mask_F000 {op w : Word} (h : op &&& 0xF000#16 = w) : op.toNat / 4096 = w.toNat / 4096 := by
  rw [← h, mask_F000, Nat.mul_div_cancel _ (by decide)]

/-- A 12-bit address keeps its number as a PC or I (R74). -/
@[simp] theorem addr16_toNat (nnn : BitVec 12) : (addr16 nnn).toNat = nnn.toNat :=
  BitVec.toNat_setWidth_of_le (by decide)

theorem exec_jp (nnn : BitVec 12) (s : State) : exec (.jp nnn) s = .next (s.setPc (addr16 nnn)) := rfl

/-- Settles O17: the mask fixes the family, whose one instruction is JP, and JP is one assignment of PC. -/
theorem jpSetsPcOnly : Obligations.JpSetsPcOnly := by
  refine ⟨fun op h => ?_, fun nnn s => ⟨s.setPc (addr16 nnn), exec_jp nnn s, ?_, ?_⟩⟩
  · exact decode_family1 op (family_of_mask_F000 h)
  · rw [State.setPc_pc, addr16_toNat]
  · rw [State.setPc_pc, State.setPc]

end Sys2Proof.Machine
end

section
/-! Conditional skips: the two keys of family 5 (R76), and a skip as one assignment of PC (R91, R102 to R104). -/

namespace Sys2Proof.Machine

/-- What an opcode matches under the mask F00F, by its family and its low nibble (R78). -/
theorem mask_F00F_eq_iff {op w : Word} : op &&& 0xF00F#16 = w ↔ op.toNat / 4096 * 4096 + op.toNat % 16 = w.toNat := by
  rw [← mask_F00F, BitVec.toNat_eq]

/-- A skip assigns PC and nothing else; its condition may be read as any proposition that says the same (R91). -/
theorem State.skipIf_eq_of_iff {s : State} {c : Bool} {p : Prop} [Decidable p] (h : c = true ↔ p) :
    s.skipIf c = { s with pc := if p then s.pc + 4 else s.pc + 2 } := by
  rw [State.skipIf, State.setPc, State.setPc]
  by_cases hp : p
  · rw [if_pos (h.mpr hp), if_pos hp]
  · rw [if_neg (mt h.mp hp), if_neg hp]

theorem exec_seImm (x : Reg) (nn : Byte) (s : State) : exec (.seImm x nn) s = .next (s.skipIf (s.getV x == nn)) := rfl

theorem exec_sneImm (x : Reg) (nn : Byte) (s : State) : exec (.sneImm x nn) s = .next (s.skipIf (s.getV x != nn)) := rfl

theorem exec_seReg (x y : Reg) (s : State) : exec (.seReg x y) s = .next (s.skipIf (s.getV x == s.getV y)) := rfl

/-- 5xy0 is SE Vx, Vy (R104). -/
theorem decode_5xy0 (op : Word) (h : op &&& 0xF00F#16 = 0x5000#16) :
    decode op = .ok (.seReg (describe op).x (describe op).y) := by
  have hkey : op.toNat / 4096 * 4096 + op.toNat % 16 = 0x5000 := mask_F00F_eq_iff.mp h
  have hfamily : op.toNat / 4096 = 5 := by omega
  have hnibble : op.toNat % 16 = 0 := by omega
  rw [decode_family5 op hfamily, if_pos ((describe_n_eq op 0x0#4).mpr hnibble)]

/-- 5xyN with another low nibble is unknown (R79, R104). -/
theorem decode_5xyN_unknown (op : Word) (h5 : op &&& 0xF000#16 = 0x5000#16) (hN : op &&& 0xF00F#16 ≠ 0x5000#16) :
    decode op = .error (.unknownOpcode op) := by
  have hfamily : op.toNat / 4096 = 5 := family_of_mask_F000 h5
  have hnibble : op.toNat % 16 ≠ 0 := fun h0 => hN (mask_F00F_eq_iff.mpr (by rw [hfamily, h0]; rfl))
  rw [decode_family5 op hfamily, if_neg (mt (describe_n_eq op 0x0#4).mp hnibble)]

/-- Settles O22: the masks fix the family and, in family 5, the key; the comparison is the skip's condition. -/
theorem skipsOnComparison : Obligations.SkipsOnComparison := by
  refine ⟨fun op h => decode_family3 op (family_of_mask_F000 h), fun op h => decode_family4 op (family_of_mask_F000 h),
    decode_5xy0, decode_5xyN_unknown, fun x nn s => ⟨?_, ?_⟩, fun x y s => ?_⟩
  · rw [exec_seImm, State.skipIf_eq_of_iff beq_iff_eq]
  · rw [exec_sneImm, State.skipIf_eq_of_iff bne_iff_ne]
  · rw [exec_seReg, State.skipIf_eq_of_iff beq_iff_eq]

end Sys2Proof.Machine
end

section
/-! Register loads and the ALU: an instruction that ends in one register write and the sequential advance (R90, R108), and the two
with an immediate operand (R109, R110). -/

namespace Sys2Proof.Machine

open Sys2Proof.Claim

/-- The frame of a write to V[x] followed by the sequential advance (R18, R90). -/
theorem State.setV_advance_frame (s : State) (x : Reg) (b : Byte) :
    KeepsVBut [x] s (s.setV x b).advance ∧ (s.setV x b).advance.pc = s.pc + 2 ∧ OnlyVPc s (s.setV x b).advance := by
  refine ⟨fun r hr => ?_, by rw [State.advance_pc, State.setV_pc], rfl⟩
  rw [State.getV_advance, State.getV_setV_other s b (List.ne_of_not_mem_cons hr)]

/-- What such an instruction leaves in V[x]. -/
theorem State.getV_setV_advance_same (s : State) (x : Reg) (b : Byte) : (s.setV x b).advance.getV x = b := by
  rw [State.getV_advance, State.getV_setV_same]

theorem exec_ldImm (x : Reg) (nn : Byte) (s : State) : exec (.ldImm x nn) s = .next (s.setV x nn).advance := rfl

theorem exec_addImm (x : Reg) (nn : Byte) (s : State) :
    exec (.addImm x nn) s = .next (s.setV x (s.getV x + nn)).advance := rfl

/-- Settles O26: the mask fixes the family, whose one instruction is LD Vx, nn, and it is one register write and the advance. -/
theorem loadImmediate : Obligations.LoadImmediate :=
  ⟨fun op h => decode_family6 op (family_of_mask_F000 h), fun x nn s =>
    ⟨_, exec_ldImm x nn s, s.getV_setV_advance_same x nn, s.setV_advance_frame x nn⟩⟩

/-- Settles O27: the mask fixes the family, whose one instruction is ADD Vx, nn; the one register it writes, VF or not, is V[x], with
the sum of bytes, which is the exact sum modulo 256. -/
theorem addImmediateWraps : Obligations.AddImmediateWraps := by
  refine ⟨fun op h => decode_family7 op (family_of_mask_F000 h), fun x nn s =>
    ⟨_, exec_addImm x nn s, ?_, s.setV_advance_frame x (s.getV x + nn)⟩⟩
  rw [State.getV_setV_advance_same, BitVec.toNat_add]

end Sys2Proof.Machine
end

section
/-! The index register: an instruction that ends in one write to I and the sequential advance (R90), and LD I, nnn (R121). -/

namespace Sys2Proof.Machine

/-- The frame of a write to I followed by the sequential advance (R90). -/
theorem State.setI_advance_frame (s : State) (w : Word) :
    (s.setI w).advance.pc = s.pc + 2 ∧
      (s.setI w).advance = { s with i := (s.setI w).advance.i, pc := (s.setI w).advance.pc } :=
  ⟨by rw [State.advance_pc, State.setI_pc], rfl⟩

/-- What such an instruction leaves in I. -/
theorem State.i_setI_advance (s : State) (w : Word) : (s.setI w).advance.i = w := by
  rw [State.advance_i, State.setI_i]

theorem exec_ldI (nnn : BitVec 12) (s : State) : exec (.ldI nnn) s = .next (s.setI (addr16 nnn)).advance := rfl

/-- Settles O33: the mask fixes the family, whose one instruction is LD I, nnn; it is one write to I and the advance, and a 12-bit
address keeps its number in I. -/
theorem loadIndex : Obligations.LoadIndex := by
  refine ⟨fun op h => decode_familyA op (family_of_mask_F000 h), fun nnn s =>
    ⟨_, exec_ldI nnn s, ?_, s.setI_advance_frame (addr16 nnn)⟩⟩
  rw [State.i_setI_advance, addr16_toNat]

end Sys2Proof.Machine
end

section
/-! The delay timer: the key of family F behind the mask F0FF (R76, R78), and the two loads between V[x] and DT (R130, R132). -/

namespace Sys2Proof.Machine

/-- An opcode that matches the row of Fxnn goes to the second level of family F, with the row's low byte as its key (R76, R78). -/
theorem decode_of_mask_F0FF {op : Word} (nn : Byte) (h : op &&& 0xF0FF#16 = encodeXNN 0xF 0 nn) :
    decode op = decodeF op (describe op) ∧ (describe op).nn = nn := by
  have hkey : op.toNat / 4096 * 4096 + op.toNat % 256 = 0xF * 4096 + (0 : Reg).val * 256 + nn.toNat := by
    rw [← mask_F0FF, h, encodeXNN_toNat 0xF (by decide)]
  rw [Fin.val_zero] at hkey
  exact ⟨decode_familyF op (by omega), (describe_nn_eq op nn).mpr (by omega)⟩

/-- Fx07 is LD Vx, DT (R130). -/
theorem decode_Fx07 (op : Word) (h : op &&& 0xF0FF#16 = 0xF007#16) : decode op = .ok (.ldVxDT (describe op).x) := by
  obtain ⟨hdecode, hkey⟩ := decode_of_mask_F0FF 0x07#8 h
  simpa [hdecode, hkey] using decodeF_cases op (describe op)

/-- Fx15 is LD DT, Vx (R132). -/
theorem decode_Fx15 (op : Word) (h : op &&& 0xF0FF#16 = 0xF015#16) : decode op = .ok (.ldDTVx (describe op).x) := by
  obtain ⟨hdecode, hkey⟩ := decode_of_mask_F0FF 0x15#8 h
  simpa [hdecode, hkey] using decodeF_cases op (describe op)

theorem exec_ldVxDT (x : Reg) (s : State) : exec (.ldVxDT x) s = .next (s.setV x s.dt).advance := rfl

theorem exec_ldDTVx (x : Reg) (s : State) : exec (.ldDTVx x) s = .next (s.setDt (s.getV x)).advance := rfl

/-- A write to DT followed by the sequential advance changes DT and PC alone (R90). -/
theorem State.setDt_advance (s : State) (b : Byte) : (s.setDt b).advance = { s with dt := b, pc := s.pc + 2 } := rfl

/-- Settles O45: the mask fixes the family and its key; LD Vx, DT is one register write and the advance, LD DT, Vx one write to DT and
the advance. -/
theorem delayTimerIsReadAndWritten : Obligations.DelayTimerIsReadAndWritten := by
  refine ⟨decode_Fx07, decode_Fx15, fun x s => ⟨_, exec_ldVxDT x s, s.getV_setV_advance_same x s.dt, s.setV_advance_frame x s.dt⟩,
    fun x s => ?_⟩
  rw [exec_ldDTVx, State.setDt_advance]

end Sys2Proof.Machine
end

section
/-! The table of R78 from both sides: decoding an encoding, encoding what an opcode decodes to, and the rows an opcode matches. -/

namespace Sys2Proof

/-! ### Decoding an encoding, by its format (R72): the dispatch reads the family and the format's own fields alone. -/

theorem decode_encodeNNN {f : Nat} (hf : f < 16) {nnn : BitVec 12} {i : Instr}
    (h : ∀ op x y n nn, decodeDescriptor op ⟨BitVec.ofNat 4 f, x, y, n, nn, nnn⟩ = .ok i) :
    decode (encodeNNN f nnn) = .ok i := by
  obtain ⟨hfamily, hnnn⟩ := describe_encodeNNN f hf nnn
  rw [decode]
  generalize describe (encodeNNN f nnn) = d at hfamily hnnn
  subst hnnn
  rw [← h (encodeNNN f d.nnn) d.x d.y d.n d.nn, ← hfamily]

theorem decode_encodeXNN {f : Nat} (hf : f < 16) {x : Reg} {nn : Byte} {i : Instr}
    (h : ∀ op y n nnn, decodeDescriptor op ⟨BitVec.ofNat 4 f, x, y, n, nn, nnn⟩ = .ok i) :
    decode (encodeXNN f x nn) = .ok i := by
  obtain ⟨hfamily, hx, hnn⟩ := describe_encodeXNN f hf x nn
  rw [decode, ← h (encodeXNN f x nn) (describe (encodeXNN f x nn)).y (describe (encodeXNN f x nn)).n
    (describe (encodeXNN f x nn)).nnn, ← hfamily]
  generalize describe (encodeXNN f x nn) = d at hx hnn
  subst hx hnn
  rfl

theorem decode_encodeXYN {f : Nat} (hf : f < 16) {x y : Reg} {n : BitVec 4} {i : Instr}
    (h : ∀ op nn nnn, decodeDescriptor op ⟨BitVec.ofNat 4 f, x, y, n, nn, nnn⟩ = .ok i) :
    decode (encodeXYN f x y n) = .ok i := by
  obtain ⟨hfamily, hx, hy, hn⟩ := describe_encodeXYN f hf x y n
  rw [decode, ← h (encodeXYN f x y n) (describe (encodeXYN f x y n)).nn (describe (encodeXYN f x y n)).nnn, ← hfamily]
  generalize describe (encodeXYN f x y n) = d at hx hy hn
  subst hx hy hn
  rfl

/-- Settles O6: by the instruction's format, whose family and key lead the dispatch back to it. -/
theorem decodeOfEncode : Obligations.DecodeOfEncode := by
  intro i
  cases i with
  | cls => rfl
  | ret => rfl
  | jp nnn => exact decode_encodeNNN (f := 0x1) (by decide) fun _ _ _ _ _ => rfl
  | call nnn => exact decode_encodeNNN (f := 0x2) (by decide) fun _ _ _ _ _ => rfl
  | seImm x nn => exact decode_encodeXNN (f := 0x3) (by decide) fun _ _ _ _ => rfl
  | sneImm x nn => exact decode_encodeXNN (f := 0x4) (by decide) fun _ _ _ _ => rfl
  | seReg x y => exact decode_encodeXYN (f := 0x5) (by decide) fun _ _ _ => rfl
  | ldImm x nn => exact decode_encodeXNN (f := 0x6) (by decide) fun _ _ _ _ => rfl
  | addImm x nn => exact decode_encodeXNN (f := 0x7) (by decide) fun _ _ _ _ => rfl
  | ldReg x y => exact decode_encodeXYN (f := 0x8) (by decide) fun _ _ _ => rfl
  | orReg x y => exact decode_encodeXYN (f := 0x8) (by decide) fun _ _ _ => rfl
  | andReg x y => exact decode_encodeXYN (f := 0x8) (by decide) fun _ _ _ => rfl
  | xorReg x y => exact decode_encodeXYN (f := 0x8) (by decide) fun _ _ _ => rfl
  | addReg x y => exact decode_encodeXYN (f := 0x8) (by decide) fun _ _ _ => rfl
  | subReg x y => exact decode_encodeXYN (f := 0x8) (by decide) fun _ _ _ => rfl
  | shr x y => exact decode_encodeXYN (f := 0x8) (by decide) fun _ _ _ => rfl
  | subnReg x y => exact decode_encodeXYN (f := 0x8) (by decide) fun _ _ _ => rfl
  | shl x y => exact decode_encodeXYN (f := 0x8) (by decide) fun _ _ _ => rfl
  | sneReg x y => exact decode_encodeXYN (f := 0x9) (by decide) fun _ _ _ => rfl
  | ldI nnn => exact decode_encodeNNN (f := 0xA) (by decide) fun _ _ _ _ _ => rfl
  | jpV0 nnn => exact decode_encodeNNN (f := 0xB) (by decide) fun _ _ _ _ _ => rfl
  | rnd x nn => exact decode_encodeXNN (f := 0xC) (by decide) fun _ _ _ _ => rfl
  | drw x y n => exact decode_encodeXYN (f := 0xD) (by decide) fun _ _ _ => rfl
  | skp x => exact decode_encodeXNN (f := 0xE) (by decide) fun _ _ _ _ => rfl
  | sknp x => exact decode_encodeXNN (f := 0xE) (by decide) fun _ _ _ _ => rfl
  | ldVxDT x => exact decode_encodeXNN (f := 0xF) (by decide) fun _ _ _ _ => rfl
  | ldVxK x => exact decode_encodeXNN (f := 0xF) (by decide) fun _ _ _ _ => rfl
  | ldDTVx x => exact decode_encodeXNN (f := 0xF) (by decide) fun _ _ _ _ => rfl
  | ldSTVx x => exact decode_encodeXNN (f := 0xF) (by decide) fun _ _ _ _ => rfl
  | addI x => exact decode_encodeXNN (f := 0xF) (by decide) fun _ _ _ _ => rfl
  | ldF x => exact decode_encodeXNN (f := 0xF) (by decide) fun _ _ _ _ => rfl
  | ldB x => exact decode_encodeXNN (f := 0xF) (by decide) fun _ _ _ _ => rfl
  | storeRegs x => exact decode_encodeXNN (f := 0xF) (by decide) fun _ _ _ _ => rfl
  | loadRegs x => exact decode_encodeXNN (f := 0xF) (by decide) fun _ _ _ _ => rfl

/-! ### Encoding what an opcode decodes to. -/

/-- An answer to an opcode is the unknown of it, or an instruction that encodes as it. -/
def AnswersFor (op : Word) (r : Except Rejection Instr) : Prop :=
  r = .error (.unknownOpcode op) ∨ ∃ i, r = .ok i ∧ encode i = op

@[simp] theorem answersFor_ok (op : Word) (i : Instr) : AnswersFor op (.ok i) ↔ encode i = op := by
  simp [AnswersFor]

@[simp] theorem answersFor_unknown (op : Word) : AnswersFor op (.error (.unknownOpcode op)) := .inl rfl

/-- An answer that stands in a list of keys and answers has what they have under their keys. -/
theorem AnswersFor.of_mem {op : Word} {w : Nat} {key : BitVec w} {r : Except Rejection Instr}
    {table : List (BitVec w × Except Rejection Instr)} (h : (key, r) ∈ table)
    (hall : ∀ p ∈ table, key = p.1 → AnswersFor op p.2) : AnswersFor op r :=
  hall _ h rfl

/-! The formats of R72 filled from an opcode's own fields give the opcode. -/

theorem encodeNNN_describe {op : Word} {f : Nat} (hf : op.toNat / 4096 = f) : encodeNNN f (describe op).nnn = op := by
  apply BitVec.eq_of_toNat_eq
  rw [encodeNNN_toNat f (by omega), describe_nnn]
  omega

theorem encodeXNN_describe {op : Word} {f : Nat} (hf : op.toNat / 4096 = f) {nn : Byte} (hnn : (describe op).nn = nn) :
    encodeXNN f (describe op).x nn = op := by
  apply BitVec.eq_of_toNat_eq
  rw [encodeXNN_toNat f (by omega), ← hnn, describe_x, describe_nn]
  omega

theorem encodeXYN_describe {op : Word} {f : Nat} (hf : op.toNat / 4096 = f) {n : BitVec 4} (hn : (describe op).n = n) :
    encodeXYN f (describe op).x (describe op).y n = op := by
  apply BitVec.eq_of_toNat_eq
  rw [encodeXYN_toNat f (by omega), ← hn, describe_x, describe_y, describe_n]
  omega

/-! The second levels of the decoder. -/

theorem decode0_answersFor {op : Word} (hf : op.toNat / 4096 = 0) : AnswersFor op (decode0 op (describe op)) := by
  obtain ⟨h, -⟩ | h := decode0_cases op (describe op)
  · rw [h]; exact answersFor_unknown op
  · have henc : ∀ nnn, (describe op).nnn = nnn → encodeNNN 0 nnn = op := fun nnn hk => hk ▸ encodeNNN_describe hf
    exact .of_mem h (by simpa [encode, encodeNNN] using ⟨henc 0x0E0#12, henc 0x0EE#12⟩)

theorem decode8_answersFor {op : Word} (hf : op.toNat / 4096 = 8) : AnswersFor op (decode8 op (describe op)) := by
  obtain ⟨h, -⟩ | h := decode8_cases op (describe op)
  · rw [h]; exact answersFor_unknown op
  · have henc := @encodeXYN_describe op 8 hf
    exact .of_mem h (by simp +contextual [encode, henc])

theorem decodeE_answersFor {op : Word} (hf : op.toNat / 4096 = 14) : AnswersFor op (decodeE op (describe op)) := by
  obtain ⟨h, -⟩ | h := decodeE_cases op (describe op)
  · rw [h]; exact answersFor_unknown op
  · have henc := @encodeXNN_describe op 14 hf
    exact .of_mem h (by simp +contextual [encode, henc])

theorem decodeF_answersFor {op : Word} (hf : op.toNat / 4096 = 15) : AnswersFor op (decodeF op (describe op)) := by
  obtain ⟨h, -⟩ | h := decodeF_cases op (describe op)
  · rw [h]; exact answersFor_unknown op
  · have henc := @encodeXNN_describe op 15 hf
    exact .of_mem h (by simp +contextual [encode, henc])

/-- The families 5 and 9: one instruction at the low nibble 0. -/
theorem ite_answersFor {c : Prop} [Decidable c] {op : Word} {i : Instr} (h : c → encode i = op) :
    AnswersFor op (if c then .ok i else .error (.unknownOpcode op)) := by
  split
  · next hc => exact (answersFor_ok op i).mpr (h hc)
  · exact answersFor_unknown op

/-- Everything the decoder can answer, family by family (R75). -/
theorem decode_answersFor (op : Word) : AnswersFor op (decode op) := by
  have hlt : op.toNat / 4096 < 16 := by omega
  interval_cases hf : op.toNat / 4096
  · rw [decode_family0 op hf]; exact decode0_answersFor hf
  · rw [decode_family1 op hf, answersFor_ok]; exact encodeNNN_describe hf
  · rw [decode_family2 op hf, answersFor_ok]; exact encodeNNN_describe hf
  · rw [decode_family3 op hf, answersFor_ok]; exact encodeXNN_describe hf rfl
  · rw [decode_family4 op hf, answersFor_ok]; exact encodeXNN_describe hf rfl
  · rw [decode_family5 op hf]; exact ite_answersFor (encodeXYN_describe hf)
  · rw [decode_family6 op hf, answersFor_ok]; exact encodeXNN_describe hf rfl
  · rw [decode_family7 op hf, answersFor_ok]; exact encodeXNN_describe hf rfl
  · rw [decode_family8 op hf]; exact decode8_answersFor hf
  · rw [decode_family9 op hf]; exact ite_answersFor (encodeXYN_describe hf)
  · rw [decode_familyA op hf, answersFor_ok]; exact encodeNNN_describe hf
  · rw [decode_familyB op hf, answersFor_ok]; exact encodeNNN_describe hf
  · rw [decode_familyC op hf, answersFor_ok]; exact encodeXNN_describe hf rfl
  · rw [decode_familyD op hf, answersFor_ok]; exact encodeXYN_describe hf rfl
  · rw [decode_familyE op hf]; exact decodeE_answersFor hf
  · rw [decode_familyF op hf]; exact decodeF_answersFor hf

/-- An opcode that decodes is the encoding of what it decodes to. -/
theorem encode_of_decode {op : Word} {i : Instr} (h : decode op = .ok i) : encode i = op := by
  simpa [h] using decode_answersFor op

/-- The decoder refuses an opcode only by name. -/
theorem decode_eq_error {op : Word} {r : Rejection} (h : decode op = .error r) : r = .unknownOpcode op := by
  simpa [h, AnswersFor] using decode_answersFor op

/-- Settles O7: an answer of the decoder for an opcode encodes as it. -/
theorem encodeOfDecode : Obligations.EncodeOfDecode := fun _ _ h => encode_of_decode h

/-! ### The second-level keys (R76). -/

theorem decode_key0 {op : Word} (hf : op.toNat / 4096 = 0) (nnn : BitVec 12) (hk : op.toNat % 4096 = nnn.toNat) :
    decode op = decode0 op { describe op with nnn := nnn } := by
  rw [decode_family0 op hf, ← (describe_nnn_eq op nnn).mpr hk]

theorem decode_key8 {op : Word} (hf : op.toNat / 4096 = 8) (n : BitVec 4) (hk : op.toNat % 16 = n.toNat) :
    decode op = decode8 op { describe op with n := n } := by
  rw [decode_family8 op hf, ← (describe_n_eq op n).mpr hk]

theorem decode_keyE {op : Word} (hf : op.toNat / 4096 = 14) (nn : Byte) (hk : op.toNat % 256 = nn.toNat) :
    decode op = decodeE op { describe op with nn := nn } := by
  rw [decode_familyE op hf, ← (describe_nn_eq op nn).mpr hk]

theorem decode_keyF {op : Word} (hf : op.toNat / 4096 = 15) (nn : Byte) (hk : op.toNat % 256 = nn.toNat) :
    decode op = decodeF op { describe op with nn := nn } := by
  rw [decode_familyF op hf, ← (describe_nn_eq op nn).mpr hk]

/-- A key that stands in no entry of a second level's list is answered unknown. -/
theorem unknown_of_key_not_mem {w : Nat} {key : BitVec w} {keys : List (BitVec w)} {r e : Except Rejection Instr}
    {table : List (BitVec w × Except Rejection Instr)} (h : (r = e ∧ key ∉ keys) ∨ (key, r) ∈ table)
    (hk : key ∉ table.map Prod.fst) : r = e :=
  h.elim And.left fun hmem => absurd (List.mem_map_of_mem (f := Prod.fst) hmem) hk

theorem decode_unknown0 {op : Word} (hf : op.toNat / 4096 = 0) (hk : op.toNat % 4096 ∉ [0x0E0, 0x0EE]) :
    decode op = .error (.unknownOpcode op) := by
  rw [decode_family0 op hf]
  exact unknown_of_key_not_mem (decode0_cases op _) (by simpa [describe_nnn_eq] using hk)

theorem decode_unknown8 {op : Word} (hf : op.toNat / 4096 = 8) (h7 : 7 < op.toNat % 16) (hE : op.toNat % 16 ≠ 0xE) :
    decode op = .error (.unknownOpcode op) := by
  rw [decode_family8 op hf]
  exact unknown_of_key_not_mem (decode8_cases op _) (by simp [describe_n_eq]; omega)

theorem decode_unknownE {op : Word} (hf : op.toNat / 4096 = 14) (hk : op.toNat % 256 ∉ [0x9E, 0xA1]) :
    decode op = .error (.unknownOpcode op) := by
  rw [decode_familyE op hf]
  exact unknown_of_key_not_mem (decodeE_cases op _) (by simpa [describe_nn_eq] using hk)

theorem decode_unknownF {op : Word} (hf : op.toNat / 4096 = 15)
    (hk : op.toNat % 256 ∉ [0x07, 0x0A, 0x15, 0x18, 0x1E, 0x29, 0x33, 0x55, 0x65]) :
    decode op = .error (.unknownOpcode op) := by
  rw [decode_familyF op hf]
  exact unknown_of_key_not_mem (decodeF_cases op _) (by simpa [describe_nn_eq] using hk)

/-- Settles O4: at each key the second level is one instruction, and at a key of no entry it is unknown. -/
theorem secondLevelKeysDecode : Obligations.SecondLevelKeysDecode := by
  rintro op _ _ rfl rfl
  refine ⟨fun hf => ⟨decode_key0 hf 0x0E0#12, decode_key0 hf 0x0EE#12, decode_unknown0 hf⟩,
    fun hf => ⟨fun hk => ?_, fun hk => ?_⟩,
    fun hf => ⟨decode_key8 hf 0x0#4, decode_key8 hf 0x1#4, decode_key8 hf 0x2#4, decode_key8 hf 0x3#4,
      decode_key8 hf 0x4#4, decode_key8 hf 0x5#4, decode_key8 hf 0x6#4, decode_key8 hf 0x7#4, decode_key8 hf 0xE#4,
      decode_unknown8 hf⟩,
    fun hf => ⟨fun hk => ?_, fun hk => ?_⟩,
    fun hf => ⟨decode_keyE hf 0x9E#8, decode_keyE hf 0xA1#8, decode_unknownE hf⟩,
    fun hf => ⟨decode_keyF hf 0x07#8, decode_keyF hf 0x0A#8, decode_keyF hf 0x15#8, decode_keyF hf 0x18#8,
      decode_keyF hf 0x1E#8, decode_keyF hf 0x29#8, decode_keyF hf 0x33#8, decode_keyF hf 0x55#8, decode_keyF hf 0x65#8,
      decode_unknownF hf⟩⟩
  · rw [decode_family5 op hf, if_pos ((describe_n_eq op 0x0#4).mpr hk)]
  · rw [decode_family5 op hf, if_neg (mt (describe_n_eq op 0x0#4).mp hk)]
  · rw [decode_family9 op hf, if_pos ((describe_n_eq op 0x0#4).mpr hk)]
  · rw [decode_family9 op hf, if_neg (mt (describe_n_eq op 0x0#4).mp hk)]

/-- Settles O8: each word by evaluation of the decoder. -/
theorem wordsOfEachFamilyDecode : Obligations.WordsOfEachFamilyDecode := by
  unfold Obligations.WordsOfEachFamilyDecode
  decide

/-! ### The rows an opcode matches (R78). -/

/-- Two rows that match one opcode agree on the bits both masks keep. -/
theorem OpcodeRow.bits_agree {op : Word} {r q : OpcodeRow} (hr : op &&& r.mask = r.bits) (hq : op &&& q.mask = q.bits) :
    r.bits &&& q.mask = q.bits &&& r.mask := by
  rw [← hr, ← hq, BitVec.and_assoc, BitVec.and_assoc, BitVec.and_comm r.mask]

/-- Different rows of the table differ in a bit both masks keep. -/
theorem opcodeRows_apart : ∀ r ∈ opcodeRows, ∀ q ∈ opcodeRows, r.bits &&& q.mask = q.bits &&& r.mask → r = q := by
  decide

/-- Every instruction's row is of the table, whatever its operands. -/
theorem Instr.row_mem (i : Instr) : i.row ∈ opcodeRows := by
  cases i <;> exact of_decide_eq_true rfl

/-- Every instruction is well formed and encodes in its row. -/
theorem fitsRow (i : Instr) : Laws.FitsRow.Statement i := by
  cases i with
  | cls => exact Laws.FitsRow.cls
  | ret => exact Laws.FitsRow.ret
  | jp nnn => exact Laws.FitsRow.jp nnn
  | call nnn => exact Laws.FitsRow.call nnn
  | seImm x nn => exact Laws.FitsRow.seImm x nn
  | sneImm x nn => exact Laws.FitsRow.sneImm x nn
  | seReg x y => exact Laws.FitsRow.seReg x y
  | ldImm x nn => exact Laws.FitsRow.ldImm x nn
  | addImm x nn => exact Laws.FitsRow.addImm x nn
  | ldReg x y => exact Laws.FitsRow.ldReg x y
  | orReg x y => exact Laws.FitsRow.orReg x y
  | andReg x y => exact Laws.FitsRow.andReg x y
  | xorReg x y => exact Laws.FitsRow.xorReg x y
  | addReg x y => exact Laws.FitsRow.addReg x y
  | subReg x y => exact Laws.FitsRow.subReg x y
  | shr x y => exact Laws.FitsRow.shr x y
  | subnReg x y => exact Laws.FitsRow.subnReg x y
  | shl x y => exact Laws.FitsRow.shl x y
  | sneReg x y => exact Laws.FitsRow.sneReg x y
  | ldI nnn => exact Laws.FitsRow.ldI nnn
  | jpV0 nnn => exact Laws.FitsRow.jpV0 nnn
  | rnd x nn => exact Laws.FitsRow.rnd x nn
  | drw x y n => exact Laws.FitsRow.drw x y n
  | skp x => exact Laws.FitsRow.skp x
  | sknp x => exact Laws.FitsRow.sknp x
  | ldVxDT x => exact Laws.FitsRow.ldVxDT x
  | ldVxK x => exact Laws.FitsRow.ldVxK x
  | ldDTVx x => exact Laws.FitsRow.ldDTVx x
  | ldSTVx x => exact Laws.FitsRow.ldSTVx x
  | addI x => exact Laws.FitsRow.addI x
  | ldF x => exact Laws.FitsRow.ldF x
  | ldB x => exact Laws.FitsRow.ldB x
  | storeRegs x => exact Laws.FitsRow.storeRegs x
  | loadRegs x => exact Laws.FitsRow.loadRegs x

/-- The row of what an opcode decodes to matches it. -/
theorem row_matches_of_decode {op : Word} {i : Instr} (h : decode op = .ok i) : op &&& i.row.mask = i.row.bits := by
  rw [← encode_of_decode h]
  exact (fitsRow i).2

/-- What the mask F00F fixes: the family and the low nibble. -/
theorem key_of_mask_F00F {op w : Word} (h : op &&& 0xF00F#16 = w) :
    op.toNat / 4096 = w.toNat / 4096 ∧ op.toNat % 16 = w.toNat % 16 := by
  rw [← h, mask_F00F]; omega

/-- What the mask F0FF fixes: the family and the low byte. -/
theorem key_of_mask_F0FF {op w : Word} (h : op &&& 0xF0FF#16 = w) :
    op.toNat / 4096 = w.toNat / 4096 ∧ op.toNat % 256 = w.toNat % 256 := by
  rw [← h, mask_F0FF]; omega

/-- The mask FFFF fixes the whole opcode. -/
theorem eq_of_mask_FFFF {op w : Word} (h : op &&& 0xFFFF#16 = w) : op = w := by
  rw [← h]; exact (BitVec.and_allOnes (x := op)).symm

/-- The decoder answers an instruction. -/
def Decodes (op : Word) : Prop := ∃ i, decode op = .ok i

/-- A row of family 8: its low nibble is the key. -/
theorem decodes_row8 {op : Word} (n : BitVec 4) {i : Instr} (h : op &&& 0xF00F#16 = encodeXYN 8 0 0 n)
    (hi : decode8 op { describe op with n := n } = .ok i) : Decodes op := by
  obtain ⟨hf, hk⟩ := key_of_mask_F00F h
  rw [encodeXYN_toNat 8 (by decide), Fin.val_zero] at hf hk
  exact ⟨i, (decode_key8 (by omega) n (by omega)).trans hi⟩

/-- A row of family E: its low byte is the key. -/
theorem decodes_rowE {op : Word} (nn : Byte) {i : Instr} (h : op &&& 0xF0FF#16 = encodeXNN 14 0 nn)
    (hi : decodeE op { describe op with nn := nn } = .ok i) : Decodes op := by
  obtain ⟨hf, hk⟩ := key_of_mask_F0FF h
  rw [encodeXNN_toNat 14 (by decide), Fin.val_zero] at hf hk
  exact ⟨i, (decode_keyE (by omega) nn (by omega)).trans hi⟩

/-- A row of family F: its low byte is the key. -/
theorem decodes_rowF {op : Word} (nn : Byte) {i : Instr} (h : op &&& 0xF0FF#16 = encodeXNN 15 0 nn)
    (hi : decodeF op { describe op with nn := nn } = .ok i) : Decodes op := by
  obtain ⟨hf, hk⟩ := key_of_mask_F0FF h
  rw [encodeXNN_toNat 15 (by decide), Fin.val_zero] at hf hk
  exact ⟨i, (decode_keyF (by omega) nn (by omega)).trans hi⟩

theorem decodes_of_rowA (op : Word) : ∀ r ∈ opcodeRowsA, op &&& r.mask = r.bits → Decodes op := by
  simp only [opcodeRowsA, List.forall_mem_cons, List.not_mem_nil, false_imp_iff, implies_true, and_true]
  exact ⟨fun h => ⟨.cls, eq_of_mask_FFFF h ▸ rfl⟩, fun h => ⟨.ret, eq_of_mask_FFFF h ▸ rfl⟩,
    fun h => ⟨_, decode_family1 op (Machine.family_of_mask_F000 h)⟩,
    fun h => ⟨_, decode_family2 op (Machine.family_of_mask_F000 h)⟩,
    fun h => ⟨_, decode_family3 op (Machine.family_of_mask_F000 h)⟩,
    fun h => ⟨_, decode_family4 op (Machine.family_of_mask_F000 h)⟩,
    fun h => ⟨_, Machine.decode_5xy0 op h⟩,
    fun h => ⟨_, decode_family6 op (Machine.family_of_mask_F000 h)⟩,
    fun h => ⟨_, decode_family7 op (Machine.family_of_mask_F000 h)⟩⟩

theorem decode_9xy0 (op : Word) (h : op &&& 0xF00F#16 = 0x9000#16) :
    decode op = .ok (.sneReg (describe op).x (describe op).y) := by
  obtain ⟨hf, hk⟩ := key_of_mask_F00F h
  rw [decode_family9 op hf, if_pos ((describe_n_eq op 0x0#4).mpr hk)]

theorem decodes_of_rowB (op : Word) : ∀ r ∈ opcodeRowsB, op &&& r.mask = r.bits → Decodes op := by
  simp only [opcodeRowsB, List.forall_mem_cons, List.not_mem_nil, false_imp_iff, implies_true, and_true]
  exact ⟨fun h => decodes_row8 0x0#4 h rfl, fun h => decodes_row8 0x1#4 h rfl, fun h => decodes_row8 0x2#4 h rfl,
    fun h => decodes_row8 0x3#4 h rfl, fun h => decodes_row8 0x4#4 h rfl, fun h => decodes_row8 0x5#4 h rfl,
    fun h => decodes_row8 0x6#4 h rfl, fun h => decodes_row8 0x7#4 h rfl, fun h => decodes_row8 0xE#4 h rfl,
    fun h => ⟨_, decode_9xy0 op h⟩⟩

theorem decodes_of_rowC (op : Word) : ∀ r ∈ opcodeRowsC, op &&& r.mask = r.bits → Decodes op := by
  simp only [opcodeRowsC, List.forall_mem_cons, List.not_mem_nil, false_imp_iff, implies_true, and_true]
  exact ⟨fun h => ⟨_, decode_familyA op (Machine.family_of_mask_F000 h)⟩,
    fun h => ⟨_, decode_familyB op (Machine.family_of_mask_F000 h)⟩,
    fun h => ⟨_, decode_familyC op (Machine.family_of_mask_F000 h)⟩,
    fun h => ⟨_, decode_familyD op (Machine.family_of_mask_F000 h)⟩,
    fun h => decodes_rowE 0x9E#8 h rfl, fun h => decodes_rowE 0xA1#8 h rfl, fun h => decodes_rowF 0x07#8 h rfl,
    fun h => decodes_rowF 0x0A#8 h rfl, fun h => decodes_rowF 0x15#8 h rfl, fun h => decodes_rowF 0x18#8 h rfl,
    fun h => decodes_rowF 0x1E#8 h rfl, fun h => decodes_rowF 0x29#8 h rfl, fun h => decodes_rowF 0x33#8 h rfl,
    fun h => decodes_rowF 0x55#8 h rfl, fun h => decodes_rowF 0x65#8 h rfl⟩

/-- An opcode that matches a row of the table decodes. -/
theorem decodes_of_row {op : Word} {r : OpcodeRow} (hr : r ∈ opcodeRows) (h : op &&& r.mask = r.bits) : Decodes op := by
  rw [opcodeRows, List.mem_append, List.mem_append] at hr
  obtain (hr | hr) | hr := hr
  · exact decodes_of_rowA op r hr h
  · exact decodes_of_rowB op r hr h
  · exact decodes_of_rowC op r hr h

/-- Unknown is the answer exactly where no row matches (R79). -/
theorem decode_unknown_iff (op : Word) :
    decode op = .error (.unknownOpcode op) ↔ ∀ r ∈ opcodeRows, op &&& r.mask ≠ r.bits := by
  constructor
  · intro hunknown r hr h
    obtain ⟨i, hi⟩ := decodes_of_row hr h
    rw [hunknown] at hi
    cases hi
  · intro hnone
    cases hd : decode op with
    | error r => rw [decode_eq_error hd]
    | ok i => exact absurd (row_matches_of_decode hd) (hnone i.row i.row_mem)

/-- Settles O5: matching rows agree where both masks look, and rows of the table do not; what decodes matches its own row. -/
theorem decodeSelectsTheMatchingRow : Obligations.DecodeSelectsTheMatchingRow :=
  ⟨rfl, fun _ r hr q hq h h' => opcodeRows_apart r hr q hq (OpcodeRow.bits_agree h h'),
    fun _ i h => ⟨i.row_mem, row_matches_of_decode h⟩, decode_unknown_iff⟩

end Sys2Proof
end

section
/-! What each instruction of R89 is, as an equation, and everything one can do: the inversion that the frames and the invariant rest on. -/

namespace Sys2Proof.Machine

open Sys2Proof.Claim

/-! ### Each instruction's meaning (R98 to R133); those of the sections above are not said again. -/

section Equations

variable (x y : Reg) (nn : Byte) (nnn : BitVec 12) (n : BitVec 4) (s : State)

theorem exec_cls : exec .cls s = .next (s.setDisp Display.blank).advance := rfl

theorem exec_ret : exec .ret s = settle .ret s (s.pop.map fun p => p.2.setPc (p.1 + 2)) := rfl

theorem exec_call : exec (.call nnn) s = settle (.call nnn) s ((s.push s.pc).map fun t => t.setPc (addr16 nnn)) := rfl

theorem exec_ldReg : exec (.ldReg x y) s = .next (s.setV x (s.getV y)).advance := rfl

theorem exec_orReg : exec (.orReg x y) s = .next (s.setV x (s.getV x ||| s.getV y)).advance := rfl

theorem exec_andReg : exec (.andReg x y) s = .next (s.setV x (s.getV x &&& s.getV y)).advance := rfl

theorem exec_xorReg : exec (.xorReg x y) s = .next (s.setV x (s.getV x ^^^ s.getV y)).advance := rfl

theorem exec_addReg : exec (.addReg x y) s =
    .next (s.setResultFlag x (s.getV x + s.getV y) (carryFlag (s.getV x) (s.getV y))).advance := rfl

theorem exec_subReg : exec (.subReg x y) s =
    .next (s.setResultFlag x (s.getV x - s.getV y) (noBorrowFlag (s.getV x) (s.getV y))).advance := rfl

theorem exec_shr : exec (.shr x y) s = .next (s.setResultFlag x (s.getV x >>> 1) (lowBitFlag (s.getV x))).advance := rfl

theorem exec_subnReg : exec (.subnReg x y) s =
    .next (s.setResultFlag x (s.getV y - s.getV x) (noBorrowFlag (s.getV y) (s.getV x))).advance := rfl

theorem exec_shl : exec (.shl x y) s = .next (s.setResultFlag x (s.getV x <<< 1) (highBitFlag (s.getV x))).advance := rfl

theorem exec_sneReg : exec (.sneReg x y) s = .next (s.skipIf (s.getV x != s.getV y)) := rfl

theorem exec_jpV0 : exec (.jpV0 nnn) s = .next (s.setPc (addr16 nnn + zext16 (s.getV 0))) := rfl

theorem exec_rnd : exec (.rnd x nn) s = .next (s.countRnd.setV x (s.rndByte &&& nn)).advance := rfl

theorem exec_drw : exec (.drw x y n) s =
    settle (.drw x y n) s ((readBytes s.font s.mem s.indexAddr n.toNat).map fun rows => s.draw x y rows) := rfl

theorem exec_skp : exec (.skp x) s = settle (.skp x) s ((s.keyLevel (s.getV x)).map fun down => s.skipIf down) := rfl

theorem exec_sknp : exec (.sknp x) s = settle (.sknp x) s ((s.keyLevel (s.getV x)).map fun down => s.skipIf (!down)) := rfl

theorem exec_ldVxK_wait (h : s.lowestKey = none) : exec (.ldVxK x) s = .next s := by
  simp only [exec, execLdVxK, h]

theorem exec_ldVxK_take {k : Reg} (h : s.lowestKey = some k) :
    exec (.ldVxK x) s = .next (s.setV x (BitVec.ofNat 8 k.val)).advance := by
  simp only [exec, execLdVxK, h]

theorem exec_ldSTVx : exec (.ldSTVx x) s = .next (s.setSt (s.getV x)).advance := rfl

theorem exec_addI : exec (.addI x) s = .next (s.setI (s.i + zext16 (s.getV x))).advance := rfl

theorem exec_ldF : exec (.ldF x) s = .next (s.setI (glyphAddr (s.getV x))).advance := rfl

theorem exec_ldB : exec (.ldB x) s = settle (.ldB x) s
    ((writeBytes s.font s.mem s.indexAddr (bcdDigits (s.getV x))).map fun m => (s.setMem m).advance) := rfl

theorem exec_storeRegs : exec (.storeRegs x) s = settle (.storeRegs x) s
    ((writeBytes s.font s.mem s.indexAddr (s.firstV x)).map fun m => (s.setMem m).advance) := rfl

theorem exec_loadRegs : exec (.loadRegs x) s = settle (.loadRegs x) s
    ((readBytes s.font s.mem s.indexAddr (x.val + 1)).map fun bs => ({ s with v := loadV s.v 0 bs } : State).advance) := rfl

end Equations

/-! ### Which faults the access primitives raise. -/

theorem readBytes_eq_error {font : Font} {m : Memory} {a n : Nat} {f : FatalFault} (h : readBytes font m a n = .error f) :
    f = .outOfRange (max a 0x1000) := by
  by_cases hr : n = 0 ∨ a + n ≤ 0x1000
  · rw [readBytes_ok font m a n hr] at h; cases h
  · rw [readBytes_error font m a n (by omega) (by omega), Except.error.injEq] at h; exact h.symm

theorem readBytes_eq_ok {font : Font} {m : Memory} {a n : Nat} {bs : List Byte} (h : readBytes font m a n = .ok bs) :
    bs = (List.range n).map (fun k => Memory.read font m (a + k)) := by
  by_cases hr : n = 0 ∨ a + n ≤ 0x1000
  · rw [readBytes_ok font m a n hr, Except.ok.injEq] at h; exact h.symm
  · rw [readBytes_error font m a n (by omega) (by omega)] at h; cases h

theorem writeBytes_eq_error {font : Font} {m : Memory} {a : Nat} {bs : List Byte} {f : FatalFault}
    (h : writeBytes font m a bs = .error f) : ∃ b, f = .outOfRange b := by
  by_cases hn : bs = []
  · subst hn; cases h
  · by_cases hr : a < 0x200 ∨ 0x1000 < a + bs.length
    · rw [writeBytes_error font m a bs hn hr, Except.error.injEq] at h; exact ⟨_, h.symm⟩
    · rw [writeBytes_ok font m a bs (by omega) (by omega)] at h; cases h

theorem State.keyLevel_eq_error {s : State} {b : Byte} {f : FatalFault} (h : s.keyLevel b = .error f) :
    f = .outOfRange b.toNat := by
  by_cases hb : b.toNat < 16
  · rw [s.keyLevel_ok b hb] at h; cases h
  · rw [s.keyLevel_error b hb, Except.error.injEq] at h; exact h.symm

/-! ### Everything an instruction can do. -/

/-- The faults an instruction can raise (R136 to R138): a stack fault only at the end of the stack, and with PC as its address. -/
inductive Raises (s : State) : FatalFault → Prop
  | outOfRange (a : Nat) : Raises s (.outOfRange a)
  | stackOverflow (h : s.sp = 16) : Raises s (.stackOverflow s.pc.toNat)
  | stackUnderflow (h : s.sp = 0) : Raises s (.stackUnderflow s.pc.toNat)

/-- The states an instruction can end in, one constructor for each shape of change (R89 to R92, R141). -/
inductive Effect (i : Instr) (s : State) : State → Prop
  /-- It raised a fault: only the halt and fault state change. -/
  | fault {f : FatalFault} (hf : Raises s f) : Effect i s (s.enterFault f (some (encode i)))
  /-- It waits for a key. -/
  | wait {x : Reg} (hi : i = .ldVxK x) (hkey : s.lowestKey = none) : Effect i s s
  /-- It wrote registers, pixels, or used a random byte. -/
  | registers {v : Vector Byte 16} {d : Display} {c : Nat} (hs : sequential i = true)
      (hv : KeepsVBut (writtenV i) s ({ s with v := v, disp := d, rndCount := c } : State).advance)
      (hd : d = s.disp ∨ i = .cls ∨ ∃ x y n, i = .drw x y n) :
      Effect i s ({ s with v := v, disp := d, rndCount := c } : State).advance
  /-- It wrote I. -/
  | index {w : Word} (hi : (∃ nnn, i = .ldI nnn) ∨ (∃ x, i = .addI x) ∨ ∃ x, i = .ldF x) : Effect i s (s.setI w).advance
  /-- It wrote DT. -/
  | delay {x : Reg} (hi : i = .ldDTVx x) : Effect i s (s.setDt (s.getV x)).advance
  /-- It wrote ST. -/
  | sound {x : Reg} (hi : i = .ldSTVx x) : Effect i s (s.setSt (s.getV x)).advance
  /-- It stored bytes. -/
  | store {m : Memory} (hs : sequential i = true)
      (hm : writeBytes s.font s.mem s.indexAddr (storedBytes i s) = .ok m) : Effect i s (s.setMem m).advance
  /-- It skipped or not. -/
  | skip {c : Bool} (hs : sequential i = false) : Effect i s (s.skipIf c)
  /-- It jumped: nnn, or nnn and a byte more. -/
  | jump {w : Word} (hs : sequential i = false) (hw : w.toNat ≤ 0x10FE) : Effect i s (s.setPc w)
  /-- It pushed its address and jumped. -/
  | call {nnn : BitVec 12} (hi : i = .call nnn) (h : s.sp.val < 16) :
      Effect i s (({ s with stack := s.stack.set s.sp.val s.pc h, sp := ⟨s.sp.val + 1, by omega⟩ } : State).setPc (addr16 nnn))
  /-- It popped an address and went on after it. -/
  | ret (hi : i = .ret) (h : 0 < s.sp.val) :
      Effect i s (({ s with sp := ⟨s.sp.val - 1, by omega⟩ } : State).setPc (s.stack[s.sp.val - 1] + 2))

/-- A register write and the advance. -/
theorem Effect.setV {i : Instr} {s : State} {x : Reg} {b : Byte} (hs : sequential i = true) (hw : writtenV i = [x]) :
    Effect i s (s.setV x b).advance :=
  .registers hs (hw ▸ (s.setV_advance_frame x b).1) (.inl rfl)

/-- The frame of a result and a flag followed by the sequential advance (R90, R108). -/
theorem State.setResultFlag_advance_frame (s : State) (x : Reg) (r f : Byte) :
    KeepsVBut [x, regF] s (s.setResultFlag x r f).advance ∧ (s.setResultFlag x r f).advance.pc = s.pc + 2 ∧
      OnlyVPc s (s.setResultFlag x r f).advance := by
  refine ⟨fun z hz => ?_, rfl, rfl⟩
  obtain ⟨hx, hf⟩ : z ≠ x ∧ z ≠ regF := by simpa using hz
  rw [State.getV_advance, State.getV_setResultFlag, if_neg hf, if_neg hx]

/-- A result, a flag and the advance. -/
theorem Effect.setResultFlag {i : Instr} {s : State} {x : Reg} {r f : Byte} (hs : sequential i = true)
    (hw : writtenV i = [x, regF]) : Effect i s (s.setResultFlag x r f).advance :=
  .registers hs (hw ▸ (s.setResultFlag_advance_frame x r f).1) (.inl rfl)

/-- An instruction ends in what its working copy, or its fault, stands for. -/
theorem settle_effect {α : Type} {i : Instr} {s : State} {r : Except FatalFault α} {f : α → State}
    (hok : ∀ a, r = .ok a → Effect i s (f a)) (herror : ∀ e, r = .error e → Raises s e) :
    ∃ t, settle i s (r.map f) = .next t ∧ Effect i s t := by
  cases r with
  | ok a => exact ⟨f a, rfl, hok a rfl⟩
  | error e => exact ⟨_, rfl, .fault (herror e rfl)⟩

theorem call_effect (nnn : BitVec 12) (s : State) :
    ∃ t, exec (.call nnn) s = .next t ∧ Effect (.call nnn) s t := by
  rw [exec_call]
  by_cases h : s.sp.val < 16
  · rw [s.push_ok s.pc h]; exact ⟨_, rfl, .call rfl h⟩
  · rw [s.push_error s.pc h]; exact ⟨_, rfl, .fault (.stackOverflow (by omega))⟩

theorem ret_effect (s : State) : ∃ t, exec .ret s = .next t ∧ Effect .ret s t := by
  rw [exec_ret]
  by_cases h : 0 < s.sp.val
  · rw [s.pop_ok h]; exact ⟨_, rfl, .ret rfl h⟩
  · rw [s.pop_error h]; exact ⟨_, rfl, .fault (.stackUnderflow (by omega))⟩

/-- A draw writes the display and VF. -/
theorem State.draw_effect (s : State) (x y : Reg) (n : BitVec 4) (rows : List Byte) :
    Effect (.drw x y n) s (s.draw x y rows) :=
  .registers rfl ((s.setDisp _).setV_advance_frame regF _).1 (.inr (.inr ⟨x, y, n, rfl⟩))

/-- A block load writes V0 to V[x] (R126). -/
theorem loadRegs_keeps (s : State) (x : Reg) {bs : List Byte} (h : bs.length = x.val + 1) :
    KeepsVBut (writtenV (.loadRegs x)) s ({ s with v := loadV s.v 0 bs } : State).advance := by
  intro r hr
  have hx : x.val < r.val := by simpa [writtenV] using hr
  rw [State.getV_advance, State.getV, loadV_getElem, dif_neg (by omega)]; rfl

/-- The sum of JP V0 is exact, and at most 0x0FFF + 0xFF (R101). -/
theorem jpV0_target_toNat (nnn : BitVec 12) (b : Byte) : (addr16 nnn + zext16 b).toNat = nnn.toNat + b.toNat := by
  rw [BitVec.toNat_add, addr16_toNat, zext16, BitVec.toNat_setWidth_of_le (by decide), Nat.mod_eq_of_lt (by omega)]

/-- Every instruction answers a next state, and that state is one of the shapes of change. -/
theorem exec_effect (i : Instr) (s : State) : ∃ t, exec i s = .next t ∧ Effect i s t := by
  cases i with
  | cls => exact ⟨_, exec_cls s, .registers rfl (fun _ _ => rfl) (.inr (.inl rfl))⟩
  | ret => exact ret_effect s
  | jp nnn => exact ⟨_, exec_jp nnn s, .jump rfl (by rw [addr16_toNat]; omega)⟩
  | call nnn => exact call_effect nnn s
  | seImm x nn => exact ⟨_, exec_seImm x nn s, .skip rfl⟩
  | sneImm x nn => exact ⟨_, exec_sneImm x nn s, .skip rfl⟩
  | seReg x y => exact ⟨_, exec_seReg x y s, .skip rfl⟩
  | ldImm x nn => exact ⟨_, exec_ldImm x nn s, .setV rfl rfl⟩
  | addImm x nn => exact ⟨_, exec_addImm x nn s, .setV rfl rfl⟩
  | ldReg x y => exact ⟨_, exec_ldReg x y s, .setV rfl rfl⟩
  | orReg x y => exact ⟨_, exec_orReg x y s, .setV rfl rfl⟩
  | andReg x y => exact ⟨_, exec_andReg x y s, .setV rfl rfl⟩
  | xorReg x y => exact ⟨_, exec_xorReg x y s, .setV rfl rfl⟩
  | addReg x y => exact ⟨_, exec_addReg x y s, .setResultFlag rfl rfl⟩
  | subReg x y => exact ⟨_, exec_subReg x y s, .setResultFlag rfl rfl⟩
  | shr x y => exact ⟨_, exec_shr x y s, .setResultFlag rfl rfl⟩
  | subnReg x y => exact ⟨_, exec_subnReg x y s, .setResultFlag rfl rfl⟩
  | shl x y => exact ⟨_, exec_shl x y s, .setResultFlag rfl rfl⟩
  | sneReg x y => exact ⟨_, exec_sneReg x y s, .skip rfl⟩
  | ldI nnn => exact ⟨_, exec_ldI nnn s, .index (.inl ⟨nnn, rfl⟩)⟩
  | jpV0 nnn => exact ⟨_, exec_jpV0 nnn s, .jump rfl (by rw [jpV0_target_toNat]; omega)⟩
  | rnd x nn => exact ⟨_, exec_rnd x nn s, .registers rfl (s.countRnd.setV_advance_frame x _).1 (.inl rfl)⟩
  | drw x y n =>
    exact settle_effect (fun rows _ => s.draw_effect x y n rows) fun e he => readBytes_eq_error he ▸ .outOfRange _
  | skp x => exact settle_effect (fun _ _ => .skip rfl) fun e he => State.keyLevel_eq_error he ▸ .outOfRange _
  | sknp x => exact settle_effect (fun _ _ => .skip rfl) fun e he => State.keyLevel_eq_error he ▸ .outOfRange _
  | ldVxDT x => exact ⟨_, exec_ldVxDT x s, .setV rfl rfl⟩
  | ldVxK x =>
    cases h : s.lowestKey with
    | none => exact ⟨s, exec_ldVxK_wait x s h, .wait rfl h⟩
    | some k => exact ⟨_, exec_ldVxK_take x s h, .setV rfl rfl⟩
  | ldDTVx x => exact ⟨_, exec_ldDTVx x s, .delay rfl⟩
  | ldSTVx x => exact ⟨_, exec_ldSTVx x s, .sound rfl⟩
  | addI x => exact ⟨_, exec_addI x s, .index (.inr (.inl ⟨x, rfl⟩))⟩
  | ldF x => exact ⟨_, exec_ldF x s, .index (.inr (.inr ⟨x, rfl⟩))⟩
  | ldB x =>
    exact settle_effect (fun _ hm => .store rfl hm) fun e he => by obtain ⟨b, rfl⟩ := writeBytes_eq_error he; exact .outOfRange b
  | storeRegs x =>
    exact settle_effect (fun _ hm => .store rfl hm) fun e he => by obtain ⟨b, rfl⟩ := writeBytes_eq_error he; exact .outOfRange b
  | loadRegs x =>
    refine settle_effect (fun bs hbs => .registers rfl (loadRegs_keeps s x ?_) (.inl rfl)) fun e he =>
      readBytes_eq_error he ▸ .outOfRange _
    rw [readBytes_eq_ok hbs, List.length_map, List.length_range]

/-- Everything an instruction can do. -/
theorem Effect.of_exec {i : Instr} {s t : State} (h : exec i s = .next t) : Effect i s t := by
  obtain ⟨u, hu, heffect⟩ := exec_effect i s
  rw [hu, Host.Outcome.next.injEq] at h
  exact h ▸ heffect

end Sys2Proof.Machine
end

section
/-! What every instruction keeps and where it continues: the frames of memory and registers, the precise faults and the advance. -/

namespace Sys2Proof.Machine

open Sys2Proof.Claim

/-! ### Memory. -/

/-- A store of bytes leaves every address outside them. -/
theorem writeBytes_frame {font : Font} {m m' : Memory} {a k : Nat} {bs : List Byte} (h : writeBytes font m a bs = .ok m')
    (hk : k < a ∨ a + bs.length ≤ k) : Memory.read font m' k = Memory.read font m k := by
  rw [(writeBytes_eq_ok h).1, Memory.read_writeAll, dif_neg (by omega)]

/-- Settles O48: only the shape `store` changes memory, and it stores the instruction's bytes. -/
theorem memoryChangesOnlyWhereStored : Obligations.MemoryChangesOnlyWhereStored := by
  intro i s t h a ha
  cases Effect.of_exec h with
  | store hs hm => exact writeBytes_frame hm ha
  | skip => rw [State.byteAt_def, State.skipIf_font, State.skipIf_mem]
  | fault | wait | registers | index | delay | sound | jump | call | ret => rfl

/-! ### Registers, stack, timers and display. -/

/-- Settles O49: each shape of change writes the fields its instructions are listed for. -/
theorem eachRegisterHasItsWriters : Obligations.EachRegisterHasItsWriters := by
  intro i s t h
  cases Effect.of_exec h with
  | registers hs hv hd => exact ⟨hv, .inl rfl, .inl rfl, .inl rfl, .inl rfl, .inl rfl, hd, rfl, rfl, rfl, rfl⟩
  | index hi => exact ⟨fun _ _ => rfl, .inr hi, .inl rfl, .inl rfl, .inl rfl, .inl rfl, .inl rfl, rfl, rfl, rfl, rfl⟩
  | delay hi =>
    exact ⟨fun _ _ => rfl, .inl rfl, .inl rfl, .inl rfl, .inr ⟨_, hi⟩, .inl rfl, .inl rfl, rfl, rfl, rfl, rfl⟩
  | sound hi =>
    exact ⟨fun _ _ => rfl, .inl rfl, .inl rfl, .inl rfl, .inl rfl, .inr ⟨_, hi⟩, .inl rfl, rfl, rfl, rfl, rfl⟩
  | call hi =>
    exact ⟨fun _ _ => rfl, .inl rfl, .inr (.inl ⟨_, hi⟩), .inr ⟨_, hi⟩, .inl rfl, .inl rfl, .inl rfl, rfl, rfl, rfl, rfl⟩
  | ret hi => exact ⟨fun _ _ => rfl, .inl rfl, .inr (.inr hi), .inl rfl, .inl rfl, .inl rfl, .inl rfl, rfl, rfl, rfl, rfl⟩
  | skip => simp [KeepsVBut]
  | fault | wait | store | jump =>
    exact ⟨fun _ _ => rfl, .inl rfl, .inl rfl, .inl rfl, .inl rfl, .inl rfl, .inl rfl, rfl, rfl, rfl, rfl⟩

/-! ### The halt. -/

/-- The fatal code of a fault an instruction raises, with the address PC where it is of the stack (R136 to R138). -/
theorem Raises.code {s : State} {f : FatalFault} (h : Raises s f) :
    f.status.code = 3 ∨ (f.status.code = 4 ∧ s.sp = 16 ∧ BitVec.ofNat 16 f.addr = s.pc) ∨
      (f.status.code = 5 ∧ s.sp = 0 ∧ BitVec.ofNat 16 f.addr = s.pc) := by
  cases h with
  | outOfRange a => exact .inl rfl
  | stackOverflow h => exact .inr (.inl ⟨rfl, h, BitVec.ofNat_toNat 16 s.pc⟩)
  | stackUnderflow h => exact .inr (.inr ⟨rfl, h, BitVec.ofNat_toNat 16 s.pc⟩)

/-- An instruction halts the session only by a fault it raised. -/
theorem Effect.fault_or_keeps_halted {i : Instr} {s t : State} (h : Effect i s t) :
    (∃ f, Raises s f ∧ t = s.enterFault f (some (encode i))) ∨
      (t.halted = s.halted ∧ t.faultCode = s.faultCode ∧ t.faultAddr = s.faultAddr ∧ t.faultOp = s.faultOp ∧
        t.faultOpValid = s.faultOpValid) := by
  cases h with
  | fault hf => exact .inl ⟨_, hf, rfl⟩
  | skip => exact .inr (by simp)
  | wait | registers | index | delay | sound | store | jump | call | ret => exact .inr ⟨rfl, rfl, rfl, rfl, rfl⟩

/-- An instruction that halts a running session ends in the fault it raised. -/
theorem Effect.fault_of_halted {i : Instr} {s t : State} (h : Effect i s t) (hs : s.halted = false) (ht : t.halted = true) :
    ∃ f, Raises s f ∧ t = s.enterFault f (some (encode i)) := by
  obtain hf | ⟨hkeeps, -⟩ := h.fault_or_keeps_halted
  · exact hf
  · rw [hkeeps, hs] at ht; cases ht

/-- Settles O16: the fault's entry writes the halt and fault state alone, and the codes are those of what was raised. -/
theorem fatalFaultsArePrecise : Obligations.FatalFaultsArePrecise := by
  intro i s t h hs ht
  obtain ⟨f, hf, rfl⟩ := (Effect.of_exec h).fault_of_halted hs ht
  exact ⟨rfl, hf.code⟩

/-! ### The sequential advance (R90). -/

theorem lowestKey_eq_none {s : State} : s.lowestKey = none ↔ ∀ k : Reg, s.key[k.val] = false := by
  simp [State.lowestKey]

/-- A sequential instruction that neither faults nor waits advances PC by 2. -/
theorem Effect.advances {i : Instr} {s t : State} (h : Effect i s t) (hi : sequential i = true)
    (hkey : ∀ x, i = .ldVxK x → s.lowestKey ≠ none) (ht : t.halted = false) : t.pc = s.pc + 2 := by
  cases h with
  | fault => cases ht
  | wait hx hnone => exact absurd hnone (hkey _ hx)
  | registers | index | delay | sound | store => rfl
  | skip hs => rw [hs] at hi; cases hi
  | jump hs => rw [hs] at hi; cases hi
  | call hc => rw [hc] at hi; cases hi
  | ret hr => rw [hr] at hi; cases hi

/-- A sum of a PC that can be fetched from and a small number does not wrap (R23). -/
theorem pc_add_toNat {pc k : Word} (hpc : pc.toNat ≤ 0xFFE) (hk : k.toNat ≤ 4) : (pc + k).toNat = pc.toNat + k.toNat := by
  rw [BitVec.toNat_add, Nat.mod_eq_of_lt (by omega)]

/-- Settles O15: of the shapes a sequential instruction can end in, all but the fault and the wait are the advance. -/
theorem sequentialInstructionsAdvanceByTwo : Obligations.SequentialInstructionsAdvanceByTwo := by
  refine ⟨fun i s t hi hkey _ h ht => ?_, fun s => s.advance_pc⟩
  have hpc : t.pc = s.pc + 2 := by
    refine (Effect.of_exec h).advances hi (fun x hx hnone => ?_) ht
    obtain ⟨k, hk⟩ := hkey x hx
    rw [lowestKey_eq_none.mp hnone k] at hk
    cases hk
  refine ⟨hpc, fun hfetch => ?_⟩
  rw [hpc, pc_add_toNat hfetch (by decide)]
  exact Nat.add_le_add_right hfetch 2

end Sys2Proof.Machine
end

section
/-! The steps of the machine as equations, and the statements about a STEP as it runs an opcode, a halt or a fetch that faults. -/

namespace Sys2Proof.Machine

open Sys2Proof.Claim

/-! ### The next operation (R45, R46). -/

theorem step_of_empty {s : State} (h : s.hostOps = []) : step s = stepOp (s.withRnd none) := by
  rw [step, nextOp, h]

theorem step_of_queue {s : State} {op : HostOp} {rest : List HostOp} (h : s.hostOps = op :: rest) :
    step s = perform op (s.withHostOps rest) := by
  rw [step, nextOp, h]

theorem step_of_step {s : State} {b : Byte} {rest : List HostOp} (h : s.hostOps = .step b :: rest) :
    step s = stepOp ((s.withHostOps rest).withRnd (some b)) :=
  step_of_queue h

/-- Where the next operation is a STEP, the step is a STEP of the same state, with the model's own RND and queue replaced. -/
theorem step_eq_of_nextIsStep {s : State} (h : NextIsStep s) :
    ∃ r ops, step s = stepOp ((s.withHostOps ops).withRnd r) := by
  obtain h | ⟨b, rest, h⟩ := h
  · refine ⟨none, [], ?_⟩
    rw [step_of_empty h, State.withHostOps, ← h]
  · exact ⟨some b, rest, step_of_step h⟩

/-! ### The STEP (R85). -/

theorem stepOp_halted {s : State} (h : s.halted = true) : stepOp s = .next s := by
  rw [stepOp, if_pos h]

theorem stepOp_fetchFault {s : State} {f : FatalFault} (hs : s.halted = false)
    (h : fetch s.font s.mem s.pc.toNat = .error f) : stepOp s = .next (s.enterFault f none) := by
  simp [stepOp, hs, h]

theorem stepOp_unknown {s : State} {op : Word} {r : Rejection} (hs : s.halted = false)
    (h : fetch s.font s.mem s.pc.toNat = .ok op) (hd : decode op = .error r) : stepOp s = .next s.advance := by
  simp [stepOp, hs, h, hd, unknownOpcode]

theorem stepOp_exec {s : State} {op : Word} {i : Instr} (hs : s.halted = false)
    (h : fetch s.font s.mem s.pc.toNat = .ok op) (hd : decode op = .ok i) : stepOp s = exec i s := by
  simp [stepOp, hs, h, hd]

/-- Settles O14: every instruction ends in one of its shapes of change, and so every STEP and every operation answers a state. -/
theorem everyStepAnswersANextState : Obligations.EveryStepAnswersANextState := by
  have hexec : ∀ (i : Instr) (s : State), ∃ t, exec i s = .next t := fun i s => (exec_effect i s).imp fun _ h => h.1
  have hstepOp : ∀ s : State, ∃ t, stepOp s = .next t := by
    intro s
    cases hs : s.halted with
    | true => exact ⟨s, stepOp_halted hs⟩
    | false =>
      cases hf : fetch s.font s.mem s.pc.toNat with
      | error f => exact ⟨_, stepOp_fetchFault hs hf⟩
      | ok op =>
        cases hd : decode op with
        | error r => exact ⟨_, stepOp_unknown hs hf hd⟩
        | ok i => rw [stepOp_exec hs hf hd]; exact hexec i s
  refine ⟨hexec, fun s => ?_⟩
  cases ho : s.hostOps with
  | nil => rw [step_of_empty ho]; exact hstepOp _
  | cons op rest =>
    rw [step_of_queue ho]
    cases op with
    | step b => exact hstepOp _
    | reset | load | setKey | tick => exact ⟨_, rfl⟩

end Sys2Proof.Machine
end

section
/-! The invariant: what each kind of update keeps of it, and that every operation of the host keeps it. -/

namespace Sys2Proof.Machine

/-! ### The invariant over the updates. -/

/-- The consistent fault state speaks of the halt and the fault state alone. -/
theorem State.FaultStateOk.congr {s t : State} (h : s.FaultStateOk) (hhalted : t.halted = s.halted)
    (hcode : t.faultCode = s.faultCode) (haddr : t.faultAddr = s.faultAddr) (hop : t.faultOp = s.faultOp)
    (hvalid : t.faultOpValid = s.faultOpValid) : t.FaultStateOk := by
  constructor
  · rw [hhalted, hcode, haddr, hop, hvalid]; exact h.clear
  · rw [hhalted, hcode]; exact h.fatal
  · rw [hvalid, hop]; exact h.noOpcode

/-- The reset fault state is consistent (D26). -/
theorem State.FaultStateOk.of_clear {s : State} (hhalted : s.halted = false) (hcode : s.faultCode = 0)
    (haddr : s.faultAddr = 0) (hop : s.faultOp = 0) (hvalid : s.faultOpValid = false) : s.FaultStateOk := by
  constructor
  · exact fun _ => ⟨hcode, haddr, hop, hvalid⟩
  · intro h; rw [hhalted] at h; cases h
  · exact fun _ => hop

/-- The codes of the fatal faults (R135). -/
theorem FatalFault.status_code (f : FatalFault) : f.status.code = 3 ∨ f.status.code = 4 ∨ f.status.code = 5 := by
  cases f with
  | outOfRange => exact .inl rfl
  | stackOverflow => exact .inr (.inl rfl)
  | stackUnderflow => exact .inr (.inr rfl)

/-- The entry of a fatal fault leaves a consistent fault state (R141). -/
theorem State.enterFault_faultStateOk (s : State) (f : FatalFault) (op : Option Word) : (s.enterFault f op).FaultStateOk := by
  constructor
  · intro h; cases h
  · exact fun _ => f.status_code
  · intro h
    cases op with
    | none => rfl
    | some w => cases h

namespace State.Inv

variable {s : State}

/-- The invariant speaks of no field but memory, FONT, PC, the stack and the fault state; PC and the stack within their bounds keep it. -/
theorem update (h : s.Inv) {v : Vector Byte 16} {i pc : Word} {sp : Fin 17} {stack : Vector Word 16} {dt st : Byte}
    {disp : Display} {key : Vector Bool 16} {rnd : Option Byte} {rndCount : Nat} {hostOps : List HostOp}
    (hpc : pc.toNat ≤ 0x10FE) (hstack : ∀ k : Fin 16, (stack[k.val]).toNat ≤ 0x0FFE) :
    State.Inv { s with v := v, i := i, pc := pc, sp := sp, stack := stack, dt := dt, st := st, disp := disp, key := key,
                       rnd := rnd, rndCount := rndCount, hostOps := hostOps } :=
  ⟨h.memory, h.reserved, hpc, hstack, h.faultState.congr rfl rfl rfl rfl rfl⟩

theorem enterFault (h : s.Inv) (f : FatalFault) (op : Option Word) : (s.enterFault f op).Inv :=
  ⟨h.memory, h.reserved, h.pcBound, h.stackBound, s.enterFault_faultStateOk f op⟩

/-- Memory replaced by another in canonical form that agrees below 0x200. -/
theorem setMem (h : s.Inv) {m : Memory} (hwf : Memory.wf s.font m)
    (hlow : ∀ a, a < Config.progBase → Memory.read s.font m a = initialByte s.font a) : (s.setMem m).Inv :=
  ⟨hwf, hlow, h.pcBound, h.stackBound, h.faultState.congr rfl rfl rfl rfl rfl⟩

/-- Bytes written directly from 0x200 on, or from anywhere on when they are the power-on contents below 0x200. -/
theorem setMem_writeAll (h : s.Inv) {a : Nat} {bs : List Byte} (hend : a + bs.length ≤ Config.memSize)
    (hlow : ∀ k, (hk : k < bs.length) → a + k < Config.progBase → bs[k] = initialByte s.font (a + k)) :
    (s.setMem (Memory.writeAll s.font s.mem a bs)).Inv := by
  refine h.setMem (Memory.writeAll_wf hend h.memory) fun b hb => ?_
  rw [Memory.read_writeAll]
  split
  · next hin =>
    have hab : a + (b - a) = b := by omega
    rw [hlow (b - a) hin.2 (by omega), hab]
  · exact h.reserved b hb

/-- Bytes an instruction stored: none of them lies below 0x200 (R57). -/
theorem setMem_writeBytes (h : s.Inv) {a : Nat} {bs : List Byte} {m : Memory} (hm : writeBytes s.font s.mem a bs = .ok m) :
    (s.setMem m).Inv := by
  obtain ⟨rfl, rfl | ⟨hbase, hend⟩⟩ := writeBytes_eq_ok hm
  · exact h.setMem h.memory h.reserved
  · exact h.setMem_writeAll hend fun k _ hk => absurd hk (Nat.not_lt.mpr (Nat.le_add_right_of_le hbase))

/-- The sequential advance of a PC that can be fetched from. -/
theorem advance (h : s.Inv) (hpc : s.pc.toNat ≤ 0xFFE) : s.advance.Inv :=
  h.update (by rw [pc_add_toNat hpc (by decide)]; exact Nat.le_trans (Nat.add_le_add_right hpc 2) (by decide)) h.stackBound

theorem skipIf (h : s.Inv) (hpc : s.pc.toNat ≤ 0xFFE) (c : Bool) : (s.skipIf c).Inv := by
  cases c with
  | true =>
    exact h.update (by rw [pc_add_toNat hpc (by decide)]; exact Nat.le_trans (Nat.add_le_add_right hpc 4) (by decide)) h.stackBound
  | false => exact h.advance hpc

/-- An address that can be fetched from, pushed. -/
theorem stack_set (h : s.Inv) {w : Word} (hw : w.toNat ≤ 0xFFE) (n : Nat) (hn : n < 16) (k : Fin 16) :
    ((s.stack.set n w hn)[k.val]).toNat ≤ 0x0FFE := by
  rw [Vector.getElem_set]
  split
  · exact hw
  · exact h.stackBound k

end State.Inv

/-! ### The invariant over the instructions. -/

/-- An instruction that was fetched keeps the invariant. -/
theorem Effect.keeps_inv {i : Instr} {s t : State} (heffect : Effect i s t) (h : s.Inv) (hpc : s.pc.toNat ≤ 0xFFE) : t.Inv := by
  cases heffect with
  | fault => exact h.enterFault _ _
  | wait => exact h
  | registers => exact State.Inv.advance (h.update h.pcBound h.stackBound) hpc
  | index | delay | sound => exact State.Inv.advance (h.update h.pcBound h.stackBound) hpc
  | store hs hm => exact (h.setMem_writeBytes hm).advance hpc
  | skip => exact h.skipIf hpc _
  | jump hs hw => exact h.update hw h.stackBound
  | @call nnn hi hsp => exact h.update (by rw [addr16_toNat]; omega) (h.stack_set hpc _ hsp)
  | ret hi hsp =>
    have htop : (s.stack[s.sp.val - 1]).toNat ≤ 0xFFE := h.stackBound ⟨s.sp.val - 1, by omega⟩
    refine h.update ?_ h.stackBound
    rw [pc_add_toNat htop (by decide)]
    exact Nat.le_trans (Nat.add_le_add_right htop 2) (by decide)

theorem Effect.font {i : Instr} {s t : State} (heffect : Effect i s t) : t.font = s.font := by
  cases heffect with
  | skip => exact s.skipIf_font _
  | fault | wait | registers | index | delay | sound | store | jump | call | ret => rfl

/-! ### The invariant over the operations of the host. -/

theorem stepOp_keeps_inv {s t : State} (h : s.Inv) (hstep : stepOp s = .next t) : t.Inv ∧ t.font = s.font := by
  obtain ⟨-, rfl⟩ | ⟨-, f, -, rfl⟩ | ⟨-, op, r, hfetch, -, rfl⟩ | ⟨-, op, i, hfetch, -, hexec⟩ := stepOp_cases hstep
  · exact ⟨h, rfl⟩
  · exact ⟨h.enterFault f none, rfl⟩
  · exact ⟨h.advance (fetch_eq_ok hfetch), rfl⟩
  · exact ⟨(Effect.of_exec hexec).keeps_inv h (fetch_eq_ok hfetch), (Effect.of_exec hexec).font⟩

/-- RESET writes FONT where FONT stands after power-on (R160). -/
theorem opReset_keeps_inv {s : State} (h : s.Inv) : (opReset s).Inv := by
  have hmem : (s.setMem (Memory.writeAll s.font s.mem Config.fontBase s.font.toList)).Inv := by
    refine h.setMem_writeAll (by simp [Config.fontBase, Config.memSize, Config.fontSize]) fun k hk _ => ?_
    rw [Vector.length_toList] at hk
    rw [Vector.getElem_toList, Config.fontBase, Nat.zero_add, initialByte_font _ _ hk]
  exact ⟨hmem.memory, hmem.reserved, by rw [opReset_pc]; decide, by simp, .of_clear rfl rfl rfl rfl rfl⟩

/-- LOAD writes from 0x200 on, and only a program that ends at 0xFFF (R162, R163). -/
theorem opLoad_keeps_inv {s : State} (h : s.Inv) (bytes : List Byte) : (opLoad bytes s).Inv := by
  unfold opLoad
  split
  · exact h
  · next hlen =>
    have hmem : (s.setMem (Memory.writeAll s.font s.mem Config.progBase bytes)).Inv :=
      h.setMem_writeAll (by simp only [Config.memSize, Config.progBase, Config.maxProgLen] at hlen ⊢; omega)
        fun k _ hk => absurd hk (Nat.not_lt.mpr (Nat.le_add_right _ k))
    exact hmem.update (by decide) h.stackBound

theorem perform_keeps_inv {s t : State} {op : HostOp} (h : s.Inv) (hop : perform op s = .next t) : t.Inv ∧ t.font = s.font := by
  cases op with
  | step b => exact stepOp_keeps_inv (s := s.withRnd (some b)) (h.update h.pcBound h.stackBound) hop
  | reset => cases hop; exact ⟨opReset_keeps_inv h, rfl⟩
  | load bytes => cases hop; exact ⟨opLoad_keeps_inv h bytes, opLoad_font s bytes⟩
  | setKey k p => cases hop; exact ⟨h.update h.pcBound h.stackBound, rfl⟩
  | tick =>
    cases hop
    refine ⟨?_, opTick_font s⟩
    unfold opTick
    split
    · exact h
    · exact h.update h.pcBound h.stackBound

/-- Settles O58: by the operation the step performs, and for a STEP by what it can do. -/
theorem everyStepKeepsTheInvariant : Obligations.EveryStepKeepsTheInvariant := by
  intro s t h hstep
  obtain ⟨-, hstepOp⟩ | ⟨op, rest, -, hperform⟩ := step_cases hstep
  · exact stepOp_keeps_inv (s := s.withRnd none) (h.update h.pcBound h.stackBound) hstepOp
  · exact perform_keeps_inv (s := s.withHostOps rest) (h.update h.pcBound h.stackBound) hperform

/-- Settles O57: nothing is listed in memory, the stack is 0 and no fault is there. -/
theorem invariantHoldsAtReset : Obligations.InvariantHoldsAtReset := by
  have hpowerOn : ∀ font : Font, (State.powerOn font).Inv := fun font =>
    ⟨⟨.nil, by simp⟩, fun _ _ => rfl, by rw [State.powerOn_pc]; decide, by simp, .of_clear rfl rfl rfl rfl rfl⟩
  exact ⟨hpowerOn, hpowerOn Font.standard⟩

end Sys2Proof.Machine
end

section
/-! The STEP and its result: the fetch, the halt, the unknown opcode, and what the result of a STEP reports (R50, R85 to R96). -/

namespace Sys2Proof.Machine

open Sys2Proof.Claim

/-! ### The STEP result (R50). -/

theorem stepResult_halted {s : State} (t : State) (hs : s.halted = true) :
    stepResult s t = ⟨s.faultCode, 0, false, s.pc, false, false, s.faultAddr⟩ := by
  rw [stepResult, if_pos hs]

theorem stepResult_fetchFault {s : State} (t : State) {f : FatalFault} (hs : s.halted = false)
    (h : fetch s.font s.mem s.pc.toNat = .error f) :
    stepResult s t = ⟨t.faultCode, 0, false, s.pc, false, false, t.faultAddr⟩ := by
  simp [stepResult, hs, h]

theorem stepResult_fetched {s : State} (t : State) {op : Word} (hs : s.halted = false)
    (h : fetch s.font s.mem s.pc.toNat = .ok op) :
    stepResult s t =
      ⟨fetchedStatus op s t, op, true, s.pc, t.disp != s.disp, s.st != 0 && t.st == 0, t.faultAddr⟩ := by
  simp [stepResult, hs, h]

/-! ### The fetch (R58, R85). -/

theorem withHostOps_of_empty {s : State} (h : s.hostOps = []) : s.withHostOps [] = s := by
  rw [State.withHostOps, ← h]

/-- A STEP whose fetch faults records the first address that is not in memory (R141, D46). -/
theorem stepOp_beyondMemory {s : State} (hs : s.halted = false) (hpc : 0xFFF ≤ s.pc.toNat) (r : Option Byte)
    (ops : List HostOp) : stepOp ((s.withHostOps ops).withRnd r) = .next (fetchFaulted s r ops) :=
  stepOp_fetchFault (s := (s.withHostOps ops).withRnd r) hs (fetch_error s.font s.mem s.pc.toNat hpc)

/-- Settles O9: where the fetch succeeds its opcode is the two bytes' word, and where it does not the STEP is its fault's entry. -/
theorem fetchReadsTwoBytesAtPc : Obligations.FetchReadsTwoBytesAtPc := by
  refine ⟨fun font m a ha => ?_, fun s t hs hpc => ?_, fun s hs hpc => ⟨fun ho => ?_, fun b rest ho => ?_, fun r ops => ?_⟩⟩
  · rw [fetch_ok font m a ha, wordOfBytes_eq_ofNat]
  · rw [stepResult_fetched t hs (fetch_ok _ _ _ hpc)]
    exact ⟨rfl, rfl, wordOfBytes_toNat _ _⟩
  · rw [step_of_empty ho, ← stepOp_beyondMemory hs hpc, withHostOps_of_empty ho]
  · rw [step_of_step ho, stepOp_beyondMemory hs hpc]
  · rw [stepResult_fetchFault _ hs (fetch_error _ _ _ hpc)]; rfl

/-! ### The instruction at PC. -/

/-- A STEP with the bytes of an instruction at PC runs it. -/
theorem stepOp_bytes {s : State} {i : Instr} (hs : s.halted = false) (hpc : s.pc.toNat ≤ 0xFFE)
    (h : decodeBytes [s.byteAt s.pc.toNat, s.byteAt (s.pc.toNat + 1)] = .ok (i, [])) : stepOp s = exec i s :=
  stepOp_exec hs (fetch_ok _ _ _ hpc) ((decodeBytes_eq_ok_iff _ _ _ _ _).mp h).1

/-- Settles O10: the step is a STEP, whose fetch gives the two bytes' word. -/
theorem stepRunsTheDecodedInstruction : Obligations.StepRunsTheDecodedInstruction := by
  refine fun s i hs hpc h => ⟨fun ho => ?_, fun b rest ho => ?_⟩
  · rw [step_of_empty ho]
    exact stepOp_bytes (s := s.withRnd none) hs hpc h
  · rw [step_of_step ho]
    exact stepOp_bytes (s := (s.withHostOps rest).withRnd (some b)) hs hpc h

theorem State.fetchablePc_le (s : State) : s.fetchablePc.toNat ≤ 0xFFE := by
  unfold State.fetchablePc
  split
  · next h => exact h
  · decide

/-- What is placed is what is fetched. -/
theorem fetch_placeOpcode (s : State) (op : Word) :
    fetch (s.placeOpcode op).font (s.placeOpcode op).mem (s.placeOpcode op).pc.toNat = .ok op := by
  rw [fetch_ok _ _ (s.placeOpcode op).pc.toNat s.fetchablePc_le]
  simp [State.placeOpcode, Memory.read_writeAll, wordOfBytes_hi_lo]

theorem tableWord_toNat (op : Word) : tableWord 16 op.toNat = op := by
  rw [tableWord, Nat.mod_eq_of_lt op.isLt, BitVec.ofNat_toNat, BitVec.setWidth_eq]

/-- Settles O11: placing empties the queue and clears the halt, and what is fetched decodes to the instruction. -/
theorem placedInstructionRunsNext : Obligations.PlacedInstructionRunsNext := by
  intro s i
  rw [State.withFetchWord, tableWord_toNat, step_of_empty rfl]
  exact stepOp_exec rfl (fetch_placeOpcode s (encode i)) (decodeOfEncode i)

/-! ### The unknown opcode (R94). -/

/-- Settles O12: an opcode of no row is unknown to the decoder, and the STEP of one is the advance. -/
theorem unknownOpcodeIsReportedAndSkipped : Obligations.UnknownOpcodeIsReportedAndSkipped := by
  intro s op hs _ hfetch hnone
  have hd : decode op = .error (.unknownOpcode op) := (decode_unknown_iff op).mpr hnone
  refine ⟨fun ho => ?_, fun b rest ho => ?_, fun r ops => ?_⟩
  · rw [step_of_empty ho]
    exact stepOp_unknown (s := s.withRnd none) hs hfetch hd
  · rw [step_of_step ho]
    exact stepOp_unknown (s := (s.withHostOps rest).withRnd (some b)) hs hfetch hd
  · rw [stepResult_fetched _ hs hfetch]
    simp [fetchedStatus, hs, hd, Status.code]

/-! ### The halt (R86, R143). -/

/-- Settles O13: a STEP and a TICK of a halted core are the state they find, and the STEP result is the stored fault. -/
theorem haltedCoreIgnoresStepAndTick : Obligations.HaltedCoreIgnoresStepAndTick := by
  refine fun s hs => ⟨fun ho => ?_, fun b rest ho => ?_, fun rest ho => ?_, ?_, fun t => stepResult_halted t hs⟩
  · rw [step_of_empty ho]
    exact stepOp_halted (s := s.withRnd none) hs
  · rw [step_of_step ho]
    exact stepOp_halted (s := (s.withHostOps rest).withRnd (some b)) hs
  · rw [step_of_queue ho, perform, opTick, if_pos (by exact hs)]; rfl
  · rw [tickToneEnd, hs]; rfl

/-! ### What a STEP result reports (R95, R96). -/

/-- A STEP that reports a display change or a tone end has run an instruction, and reports how the state it ended in differs. -/
theorem stepOp_reports {s t : State} {r : Option Byte} {ops : List HostOp}
    (h : stepOp ((s.withHostOps ops).withRnd r) = .next t)
    (hreport : (stepResult s t).displayChanged = true ∨ (stepResult s t).toneEnd = true) :
    ∃ i, decode (stepResult s t).opcode = .ok i ∧ exec i ((s.withHostOps ops).withRnd r) = .next t ∧
      (stepResult s t).displayChanged = (t.disp != s.disp) ∧ (stepResult s t).toneEnd = (s.st != 0 && t.st == 0) := by
  obtain ⟨hs, rfl⟩ | ⟨hs, f, hfetch, rfl⟩ | ⟨hs, op, e, hfetch, -, rfl⟩ | ⟨hs, op, i, hfetch, hd, hexec⟩ := stepOp_cases h
  · rw [stepResult_halted (s := s) _ hs] at hreport
    simp at hreport
  · rw [stepResult_fetchFault (s := s) _ hs hfetch] at hreport
    simp at hreport
  · rw [stepResult_fetched (s := s) _ hs hfetch] at hreport
    simp [unknownOpcode] at hreport
  · rw [stepResult_fetched (s := s) _ hs hfetch]
    exact ⟨i, hd, hexec, rfl, rfl⟩

/-- Settles O50: a report comes of an instruction that wrote the display, or ST, and those are the listed ones. -/
theorem stepReportsHaveTheirCauses : Obligations.StepReportsHaveTheirCauses := by
  intro s t hnext hstep
  obtain ⟨r, ops, heq⟩ := step_eq_of_nextIsStep hnext
  rw [heq] at hstep
  refine ⟨fun hdisp => ?_, fun htone => ?_⟩
  · obtain ⟨i, hd, hexec, hchanged, -⟩ := stepOp_reports hstep (.inl hdisp)
    obtain ⟨-, -, -, -, -, -, hwriter, -⟩ := eachRegisterHasItsWriters i _ t hexec
    obtain hsame | rfl | ⟨x, y, n, rfl⟩ := hwriter
    · rw [hchanged, hsame] at hdisp; simp at hdisp
    · exact .inl hd
    · exact .inr ⟨x, y, n, hd⟩
  · obtain ⟨i, hd, hexec, -, hended⟩ := stepOp_reports hstep (.inr htone)
    obtain ⟨hst, ht⟩ : s.st ≠ 0 ∧ t.st = 0 := by simpa [hended] using htone
    obtain ⟨-, -, -, -, -, hwriter, -⟩ := eachRegisterHasItsWriters i _ t hexec
    obtain hsame | ⟨x, rfl⟩ := hwriter
    · exact absurd (hsame.symm.trans ht) hst
    · rw [exec_ldSTVx] at hexec
      cases hexec
      exact ⟨x, hd, ht, hst⟩

/-- The status of a completed instruction: AWAITING_INPUT exactly where it waits (R89). -/
theorem completedStatus_code (i : Instr) (s : State) :
    (Waits i s → (completedStatus i s).code = 1) ∧ (¬ Waits i s → (completedStatus i s).code = 0) := by
  by_cases hx : ∃ x, i = .ldVxK x
  · obtain ⟨x, rfl⟩ := hx
    by_cases hkey : s.lowestKey = none
    · have hw : Waits (.ldVxK x) s := ⟨⟨x, rfl⟩, lowestKey_eq_none.mp hkey⟩
      simp [completedStatus, hkey, Status.code, hw]
    · have hw : ¬ Waits (.ldVxK x) s := fun hw => hkey (lowestKey_eq_none.mpr hw.2)
      simp [completedStatus, hkey, Status.code, hw]
  · have hw : ¬ Waits i s := fun hw => hx hw.1
    have hok : completedStatus i s = .ok := by
      unfold completedStatus
      split
      · next x => exact absurd ⟨x, rfl⟩ hx
      · rfl
    rw [hok]
    exact ⟨fun h => absurd h hw, fun _ => rfl⟩

/-- The status of a STEP that fetched an instruction and did not halt. -/
theorem stepResult_status {s t : State} {i : Instr} (hs : s.halted = false) (ht : t.halted = false)
    (hfetch : fetch s.font s.mem s.pc.toNat = .ok (encode i)) :
    (stepResult s t).status = (completedStatus i s).code := by
  have hd : decode (encode i) = .ok i := decodeOfEncode i
  rw [stepResult_fetched t hs hfetch]
  simp [fetchedStatus, ht, hd]

/-- The report of a display change is that some pixel differs (D18). -/
theorem disp_ne_iff_pixel {s t : State} :
    (t.disp != s.disp) = true ↔ ∃ px py, Display.pixel t.disp px py ≠ Display.pixel s.disp px py := by
  rw [bne_iff_ne]
  constructor
  · intro hne
    by_contra hall
    push Not at hall
    exact hne (Display.ext_pixel hall)
  · rintro ⟨px, py, hne⟩ heq
    exact hne (by rw [heq])

/-- Settles O60: the result of a STEP that fetched i, field by field; a halt is the fault i raised. -/
theorem stepResultReportsTheInstruction : Obligations.StepResultReportsTheInstruction := by
  intro s t i hnext hs hfetch hstep
  obtain ⟨r, ops, heq⟩ := step_eq_of_nextIsStep hnext
  have hd : decode (encode i) = .ok i := decodeOfEncode i
  rw [heq, stepOp_exec (s := (s.withHostOps ops).withRnd r) hs hfetch hd] at hstep
  have hresult := stepResult_fetched t hs hfetch
  refine ⟨by rw [hresult], by rw [hresult], by rw [hresult], by rw [hresult], fun ht => ⟨?_, ?_⟩, fun ht hw => ?_,
    fun ht hw => ?_, by rw [hresult, disp_ne_iff_pixel], by simp [hresult]⟩
  · rw [hresult, fetchedStatus, if_pos ht]
  · obtain ⟨f, -, rfl⟩ := (Effect.of_exec hstep).fault_of_halted hs ht
    exact f.status_code
  · rw [stepResult_status hs ht hfetch]
    exact (completedStatus_code i s).1 hw
  · rw [stepResult_status hs ht hfetch]
    exact (completedStatus_code i s).2 hw

end Sys2Proof.Machine
end

section
/-! The host's operations: what each does, the order of several in one cycle, and runs over a queue of them (R45, R46, R143 to R165). -/

namespace Sys2Proof.Machine

open Sys2Proof.Claim

/-! ### TICK, RESET, LOAD and SET_KEY. -/

theorem countDown_toNat (b : Byte) : (countDown b).toNat = b.toNat - 1 := by
  unfold countDown
  split
  · next h => rw [h]; rfl
  · next h =>
    have hpos : 1#8 ≤ b := Nat.one_le_iff_ne_zero.mpr fun h0 => h (BitVec.eq_of_toNat_eq h0)
    exact BitVec.toNat_sub_of_le hpos

/-- Settles O51: TICK is nothing while halted, and else one decrement of each timer. -/
theorem tickDecrementsTheTimers : Obligations.TickDecrementsTheTimers := by
  refine fun s rest ho => ⟨opTick (s.withHostOps rest), step_of_queue ho, fun hs => ⟨?_, ?_⟩, fun hs => ⟨?_, ?_, ?_, ?_⟩⟩
  · rw [opTick, if_pos (by exact hs)]; rfl
  · rw [tickToneEnd, hs]; rfl
  · rw [opTick_dt, if_neg (by simp [hs]), countDown_toNat]; rfl
  · rw [opTick_st, if_neg (by simp [hs]), countDown_toNat]; rfl
  · rw [opTick, if_neg (by simp [hs])]; rfl
  · simp [tickToneEnd, hs, BitVec.toNat_eq]

/-- Settles O52: every field of the state is assigned its reset value but the listed ones, and memory is FONT's bytes written at 0. -/
theorem resetReinitialisesAllButProgramAndKeys : Obligations.ResetReinitialisesAllButProgramAndKeys := by
  refine fun s rest ho => ⟨opReset (s.withHostOps rest), step_of_queue ho, rfl, fun a ha => ?_, fun a ha => ?_⟩
  · simp [Memory.read_writeAll, Config.fontBase, Config.fontSize, ha]
  · simp [Memory.read_writeAll, Config.fontBase, Config.fontSize, Nat.not_lt.mpr ha]

/-- Settles O53: a program that fits is written from 0x200 on, one that does not changes nothing. -/
theorem loadCopiesTheProgram : Obligations.LoadCopiesTheProgram := by
  intro s bytes rest ho
  refine ⟨opLoad bytes (s.withHostOps rest), step_of_queue ho, fun hlen => ?_, fun hlen => ?_⟩
  · have hfits : ¬ bytes.length > Config.maxProgLen := Nat.not_lt.mpr hlen
    have hmem : ∀ a, (opLoad bytes (s.withHostOps rest)).byteAt a =
        Memory.read s.font (Memory.writeAll s.font s.mem 0x200 bytes) a := by
      intro a
      rw [State.byteAt_def, opLoad_mem, if_neg hfits, opLoad_font]; rfl
    refine ⟨by rw [loadStatus, if_neg hfits]; rfl, by rw [opLoad, if_neg hfits]; rfl, fun k hk => ?_, fun a ha => ?_⟩
    · rw [hmem, Memory.read_writeAll, dif_pos (by omega)]
      simp
    · rw [hmem, Memory.read_writeAll, dif_neg (by omega)]
  · have htoo : bytes.length > Config.maxProgLen := hlen
    exact ⟨by rw [loadStatus, if_pos htoo]; rfl, by rw [opLoad, if_pos htoo]; rfl⟩

/-- Settles O54: one entry of KEY is set. -/
theorem setKeySetsOneFlag : Obligations.SetKeySetsOneFlag := by
  refine fun s k p rest ho => ⟨opSetKey k p (s.withHostOps rest), step_of_queue ho, ?_, fun j hj => ?_, rfl⟩
  · simp
  · have hne : k.val ≠ j.val := fun h => hj (Fin.ext h.symm)
    simp [hne]

/-- Settles O56: field by field; nothing is listed in memory, so every address reads as its power-on byte. -/
theorem powerOnState : Obligations.PowerOnState := by
  refine ⟨rfl, ?_⟩
  rintro font _ rfl
  exact ⟨fun r => by simp [State.getV], rfl, rfl, rfl, fun k => by simp, rfl, rfl, Display.pixel_blank, fun k => by simp,
    fun a ha => initialByte_font font a ha, fun a ha => initialByte_zero font a ha, rfl, rfl, rfl, rfl, rfl⟩

/-! ### The queue: an operation takes itself off and adds none. -/

theorem Effect.hostOps {i : Instr} {s t : State} (h : Effect i s t) : t.hostOps = s.hostOps := by
  cases h with
  | skip => exact s.skipIf_hostOps _
  | fault | wait | registers | index | delay | sound | store | jump | call | ret => rfl

theorem stepOp_hostOps {s t : State} (h : stepOp s = .next t) : t.hostOps = s.hostOps := by
  obtain ⟨-, rfl⟩ | ⟨-, f, -, rfl⟩ | ⟨-, op, r, -, -, rfl⟩ | ⟨-, op, i, -, -, hexec⟩ := stepOp_cases h
  · rfl
  · rfl
  · rfl
  · exact (Effect.of_exec hexec).hostOps

theorem perform_hostOps {op : HostOp} {s t : State} (h : perform op s = .next t) : t.hostOps = s.hostOps := by
  cases op with
  | step b => exact stepOp_hostOps (s := s.withRnd (some b)) h
  | reset => cases h; rfl
  | load bytes => cases h; exact opLoad_hostOps s bytes
  | setKey k p => cases h; rfl
  | tick => cases h; exact opTick_hostOps s

/-- A step takes the oldest operation off the queue, where there is one. -/
theorem step_hostOps {s t : State} (h : step s = .next t) : t.hostOps = s.hostOps.tail := by
  obtain ⟨ho, hstepOp⟩ | ⟨op, rest, ho, hperform⟩ := step_cases h
  · rw [stepOp_hostOps hstepOp, State.withRnd_hostOps, ho, List.tail_nil]
  · rw [perform_hostOps hperform, State.withHostOps_hostOps, ho, List.tail_cons]

/-- A run of k steps takes the k oldest operations off the queue. -/
theorem run_hostOps (k : Nat) (s : State) : ∃ t, Sys2Proof.core.run k s = .next t ∧ t.hostOps = s.hostOps.drop k := by
  induction k generalizing s with
  | zero => exact ⟨s, run_zero s, rfl⟩
  | succ k ih =>
    obtain ⟨u, hu⟩ := everyStepAnswersANextState.2 s
    obtain ⟨t, ht, hqueue⟩ := ih u
    refine ⟨t, by rw [run_next k hu, ht], ?_⟩
    rw [hqueue, step_hostOps hu, List.drop_tail]

/-! ### The order of one cycle (R46). -/

/-- A list of operations in strict order, with its places from lo to below hi. -/
def OrderedWithin (lo hi : Nat) (ops : List HostOp) : Prop :=
  ops.Pairwise (fun a b => cycleRank a < cycleRank b) ∧ ∀ op ∈ ops, lo ≤ cycleRank op ∧ cycleRank op < hi

theorem OrderedWithin.append {lo mid hi : Nat} {ops ops' : List HostOp} (h : OrderedWithin lo mid ops)
    (h' : OrderedWithin mid hi ops') (hlo : lo ≤ mid) (hhi : mid ≤ hi) : OrderedWithin lo hi (ops ++ ops') := by
  refine ⟨List.pairwise_append.mpr ⟨h.1, h'.1, fun a ha b hb => ?_⟩, fun op hop => ?_⟩
  · exact Nat.lt_of_lt_of_le (h.2 a ha).2 (h'.2 b hb).1
  · obtain hop | hop := List.mem_append.mp hop
    · exact ⟨(h.2 op hop).1, Nat.lt_of_lt_of_le (h.2 op hop).2 hhi⟩
    · exact ⟨Nat.le_trans hlo (h'.2 op hop).1, (h'.2 op hop).2⟩

/-- At most one operation, of one place. -/
theorem orderedWithin_ite (c : Bool) (op : HostOp) : OrderedWithin (cycleRank op) (cycleRank op + 1) (if c then [op] else []) := by
  cases c <;> simp [OrderedWithin]

theorem orderedWithin_option {α : Type} (o : Option α) (f : α → HostOp) {n : Nat} (hf : ∀ a, cycleRank (f a) = n) :
    OrderedWithin n (n + 1) (o.toList.map f) := by
  cases o <;> simp [OrderedWithin, hf]

/-- The SET_KEYs, by rising key number. -/
theorem orderedWithin_keys (keys : Vector (Option Bool) 16) :
    OrderedWithin 2 18 ((List.finRange 16).filterMap fun k => (keys[k.val]).map (HostOp.setKey k)) := by
  constructor
  · rw [List.pairwise_filterMap]
    refine (List.pairwise_lt_finRange 16).imp fun {j k} hjk a ha b hb => ?_
    simp only [Option.map_eq_some_iff] at ha hb
    obtain ⟨p, -, rfl⟩ := ha
    obtain ⟨q, -, rfl⟩ := hb
    exact Nat.add_lt_add_left hjk 2
  · intro op hop
    obtain ⟨k, -, hk⟩ := List.mem_filterMap.mp hop
    obtain ⟨p, -, rfl⟩ := Option.map_eq_some_iff.mp hk
    exact ⟨Nat.le_add_right 2 k.val, by simp only [cycleRank]; omega⟩

theorem presentedOps_ordered (p : Presented) : OrderedWithin 0 20 (presentedOps p) :=
  ((((orderedWithin_ite p.reset .reset).append (orderedWithin_option p.load .load fun _ => rfl) (by decide) (by decide)).append
    (orderedWithin_keys p.keys) (by decide) (by decide)).append (orderedWithin_option p.step .step fun _ => rfl)
    (by decide) (by decide)).append (orderedWithin_ite p.tick .tick) (by decide) (by decide)

/-- Settles O55: the five parts of the list are each in order and each after the one before; a step takes the oldest off. -/
theorem presentedOperationsAreInOrder : Obligations.PresentedOperationsAreInOrder := by
  refine fun p => ⟨(presentedOps_ordered p).1, by simp [presentedOps], by simp [presentedOps], fun k b => ?_,
    by simp [presentedOps], by simp [presentedOps], fun s op rest ho => ?_, fun s k ho => ?_⟩
  · simp [presentedOps]
  · obtain ⟨t, ht⟩ := everyStepAnswersANextState.2 s
    have hperform : perform op (s.withHostOps rest) = .next t := by rw [← step_of_queue ho, ht]
    exact ⟨t, ht, hperform, perform_hostOps hperform⟩
  · rw [← ho]
    exact run_hostOps k s

/-! ### Runs of a halted core (R144). -/

/-- The halt and the fault state of t are those of s. -/
def SameHalt (s t : State) : Prop :=
  t.halted = s.halted ∧ t.faultCode = s.faultCode ∧ t.faultAddr = s.faultAddr ∧ t.faultOp = s.faultOp ∧
    t.faultOpValid = s.faultOpValid

theorem SameHalt.trans {s t u : State} (h : SameHalt s t) (h' : SameHalt t u) : SameHalt s u := by
  obtain ⟨h1, h2, h3, h4, h5⟩ := h
  obtain ⟨h1', h2', h3', h4', h5'⟩ := h'
  exact ⟨h1'.trans h1, h2'.trans h2, h3'.trans h3, h4'.trans h4, h5'.trans h5⟩

theorem stepOp_sameHalt {s t : State} (hs : s.halted = true) (h : stepOp s = .next t) : SameHalt s t := by
  rw [stepOp_halted hs] at h
  cases h
  exact ⟨rfl, rfl, rfl, rfl, rfl⟩

/-- No operation but RESET touches the halt and fault state of a halted core. -/
theorem perform_sameHalt {op : HostOp} {s t : State} (hs : s.halted = true) (hop : op ≠ .reset) (h : perform op s = .next t) :
    SameHalt s t := by
  cases op with
  | reset => exact absurd rfl hop
  | step b => exact stepOp_sameHalt (s := s.withRnd (some b)) hs h
  | load bytes => cases h; simp [SameHalt]
  | setKey k p => cases h; exact ⟨rfl, rfl, rfl, rfl, rfl⟩
  | tick => cases h; simp [SameHalt]

theorem step_sameHalt {s t : State} (hs : s.halted = true) (hreset : HostOp.reset ∉ s.hostOps) (h : step s = .next t) :
    SameHalt s t := by
  obtain ⟨-, hstepOp⟩ | ⟨op, rest, ho, hperform⟩ := step_cases h
  · exact stepOp_sameHalt (s := s.withRnd none) hs hstepOp
  · refine perform_sameHalt (s := s.withHostOps rest) hs (fun hop => hreset ?_) hperform
    rw [ho, hop]
    exact List.mem_cons_self

theorem run_sameHalt (n : Nat) {s t : State} (hs : s.halted = true) (hreset : HostOp.reset ∉ s.hostOps)
    (h : Sys2Proof.core.run n s = .next t) : SameHalt s t := by
  induction n generalizing s with
  | zero =>
    rw [run_zero] at h
    cases h
    exact ⟨rfl, rfl, rfl, rfl, rfl⟩
  | succ n ih =>
    obtain ⟨u, hu⟩ := everyStepAnswersANextState.2 s
    have hsame : SameHalt s u := step_sameHalt hs hreset hu
    have hrest : HostOp.reset ∉ u.hostOps := fun hmem => hreset (List.mem_of_mem_tail (step_hostOps hu ▸ hmem))
    rw [run_next n hu] at h
    exact hsame.trans (ih (hsame.1.trans hs) hrest h)

/-- Settles O59: by induction over the run, each step of which keeps the halt and leaves no RESET in the queue. -/
theorem onlyResetLeavesTheHalt : Obligations.OnlyResetLeavesTheHalt := by
  intro n s t hs hreset h
  obtain ⟨hhalted, hfault⟩ := run_sameHalt n hs hreset h
  exact ⟨hhalted.trans hs, hfault⟩

end Sys2Proof.Machine
end

section
/-! Flow and skips, instruction by instruction: the stack's pushes and pops, the keys, and the faults (R98 to R107). -/

namespace Sys2Proof.Machine

open Sys2Proof.Claim

/-! ### JP V0, CALL and RET. -/

/-- Settles O18: the exact sum fits PC, which is all that is assigned. -/
theorem jpV0AddsV0 : Obligations.JpV0AddsV0 :=
  fun nnn s => ⟨_, exec_jpV0 nnn s, jpV0_target_toNat nnn (s.getV 0), rfl⟩

/-- Settles O19: by the push, which succeeds exactly below a full stack. -/
theorem callPushesItsAddressOrOverflows : Obligations.CallPushesItsAddressOrOverflows := by
  refine fun nnn s => ⟨fun h => ?_, fun h => ?_⟩
  · rw [exec_call, s.push_ok s.pc h]
    refine ⟨_, rfl, rfl, addr16_toNat nnn, fun k => ?_, rfl⟩
    simp [Vector.getElem_set, eq_comm]
  · rw [exec_call, s.push_error s.pc (by rw [h]; decide)]; rfl

/-- Settles O20: by the pop, which succeeds exactly where the stack has an entry. -/
theorem retContinuesAfterTheCallOrUnderflows : Obligations.RetContinuesAfterTheCallOrUnderflows := by
  refine fun s => ⟨fun k h => ?_, fun h => ?_⟩
  · rw [exec_ret, s.pop_ok (by omega)]
    refine ⟨_, rfl, ?_, ?_, rfl⟩
    · simp [h]
    · simp [h]
  · rw [exec_ret, s.pop_error (by rw [h]; decide)]; rfl

/-- Settles O21: the CALL puts its address on top, and the RET of a body that keeps the stack takes that entry. -/
theorem callThenRetReturns : Obligations.CallThenRetReturns := by
  intro nnn s body hsp
  obtain ⟨t, ht, htsp, -, hentry, -⟩ := (callPushesItsAddressOrOverflows nnn s).1 hsp
  refine ⟨t, ht, fun hbodysp hbodystack => ?_⟩
  obtain ⟨u, hu, husp, hupc, -⟩ := (retContinuesAfterTheCallOrUnderflows body).1 ⟨s.sp.val, hsp⟩ (by rw [hbodysp, htsp])
  have htop : body.stack[s.sp.val] = s.pc := by simpa [hbodystack] using hentry ⟨s.sp.val, hsp⟩
  exact ⟨u, hu, by rw [hupc, htop], Fin.ext husp⟩

/-! ### Skips. -/

/-- Settles O23: the comparison is the skip's condition. -/
theorem sneRegSkipsWhenDifferent : Obligations.SneRegSkipsWhenDifferent := by
  intro x y s
  rw [exec_sneReg, State.skipIf_eq_of_iff bne_iff_ne]

/-- The level of the key with a number. -/
theorem State.keyLevel_of_key (s : State) {b : Byte} {k : Reg} (h : b.toNat = k.val) : s.keyLevel b = .ok s.key[k.val] := by
  rw [s.keyLevel_ok b (by omega)]
  simp [h]

/-- Settles O24: the key's level, or its opposite, is the skip's condition. -/
theorem keySkipsReadTheLevel : Obligations.KeySkipsReadTheLevel := by
  intro x s k h
  rw [exec_skp, exec_sknp, s.keyLevel_of_key h]
  refine ⟨congrArg Host.Outcome.next (State.skipIf_eq_of_iff Iff.rfl), congrArg Host.Outcome.next (State.skipIf_eq_of_iff ?_)⟩
  simp

/-- Settles O25: an index above 0xF names no key. -/
theorem keySkipsFaultAboveF : Obligations.KeySkipsFaultAboveF := by
  intro x s h
  rw [exec_skp, exec_sknp, s.keyLevel_error (s.getV x) (by omega)]
  exact ⟨rfl, rfl⟩

end Sys2Proof.Machine
end

section
/-! The ALU, instruction by instruction: results and flags as numbers (R111 to R120). -/

namespace Sys2Proof.Machine

open Sys2Proof.Claim

/-! ### One register and no flag. -/

/-- Settles O28: each is one register write, whose bits are those of the operation. -/
theorem assignAndLogicWriteVxOnly : Obligations.AssignAndLogicWriteVxOnly := by
  refine fun x y s => ⟨⟨_, exec_ldReg x y s, s.getV_setV_advance_same x _, s.setV_advance_frame x _⟩,
    ⟨_, exec_orReg x y s, fun j _ => ?_, s.setV_advance_frame x _⟩,
    ⟨_, exec_andReg x y s, fun j _ => ?_, s.setV_advance_frame x _⟩,
    ⟨_, exec_xorReg x y s, fun j _ => ?_, s.setV_advance_frame x _⟩⟩
  · rw [State.getV_setV_advance_same, BitVec.getLsbD_or]
  · rw [State.getV_setV_advance_same, BitVec.getLsbD_and]
  · rw [State.getV_setV_advance_same, BitVec.getLsbD_xor]

/-- Settles O32: one register write after the byte is counted; a queued STEP pins the byte. -/
theorem rndMasksTheRandomByte : Obligations.RndMasksTheRandomByte := by
  refine ⟨fun x nn s => ?_, fun x nn b s rest ho hs hfetch => ?_⟩
  · refine ⟨_, exec_rnd x nn s, State.getV_setV_advance_same _ x _, fun b hb => ?_,
      (s.countRnd.setV_advance_frame x _).1, rfl, rfl⟩
    rw [State.getV_setV_advance_same, State.rndByte, hb, Option.getD_some]
  · have hd : decode (encode (.rnd x nn)) = .ok (.rnd x nn) := decodeOfEncode _
    rw [step_of_step ho, stepOp_exec (s := (s.withHostOps rest).withRnd (some b)) hs hfetch hd, exec_rnd]
    exact ⟨_, rfl, State.getV_setV_advance_same _ x _⟩

/-! ### A result and a flag. -/

theorem State.getV_result (s : State) {x : Reg} (r f : Byte) (hx : x ≠ regF) : (s.setResultFlag x r f).advance.getV x = r := by
  rw [State.getV_advance, State.getV_setResultFlag, if_neg hx, if_pos rfl]

theorem State.getV_flag (s : State) (x : Reg) (r f : Byte) : (s.setResultFlag x r f).advance.getV regF = f := by
  rw [State.getV_advance, State.getV_setResultFlag, if_pos rfl]

theorem carryFlag_toNat (a b : Byte) : (carryFlag a b).toNat = if a.toNat + b.toNat > 255 then 1 else 0 := by
  simp [carryFlag, flagByte_toNat]

theorem noBorrowFlag_toNat (a b : Byte) : (noBorrowFlag a b).toNat = if a.toNat ≥ b.toNat then 1 else 0 := by
  simp [noBorrowFlag, flagByte_toNat]

theorem lowBitFlag_toNat (a : Byte) : (lowBitFlag a).toNat = a.toNat % 2 := by
  rw [lowBitFlag, flagByte_toNat, BitVec.getLsbD, Nat.testBit_zero]
  simp only [decide_eq_true_eq]
  split <;> omega

theorem highBitFlag_toNat (a : Byte) : (highBitFlag a).toNat = a.toNat / 128 := by
  rw [highBitFlag, flagByte_toNat, BitVec.getLsbD, Nat.testBit_eq_decide_div_mod_eq]
  simp only [decide_eq_true_eq]
  split <;> omega

/-- The difference of bytes is the exact difference modulo 256 (R116, R118). -/
theorem sub_toNat_int (a b : Byte) : ((a - b).toNat : Int) = (a.toNat - b.toNat : Int) % 256 := by
  rw [BitVec.toNat_sub]
  omega

/-- Settles O29: the sum of bytes and the carry of the exact sum. -/
theorem addSetsCarry : Obligations.AddSetsCarry := by
  refine fun x y s => ⟨_, exec_addReg x y s, fun hx => ?_, ?_, s.setResultFlag_advance_frame x _ _⟩
  · rw [s.getV_result _ _ hx, BitVec.toNat_add]
  · rw [s.getV_flag, carryFlag_toNat]

/-- Settles O30: the difference of bytes and the order of the operands, either way round. -/
theorem subtractionsSetNoBorrow : Obligations.SubtractionsSetNoBorrow := by
  refine fun x y s => ⟨⟨_, exec_subReg x y s, fun hx => ?_, ?_, s.setResultFlag_advance_frame x _ _⟩,
    ⟨_, exec_subnReg x y s, fun hx => ?_, ?_, s.setResultFlag_advance_frame x _ _⟩⟩
  · rw [s.getV_result _ _ hx, sub_toNat_int]
  · rw [s.getV_flag, noBorrowFlag_toNat]
  · rw [s.getV_result _ _ hx, sub_toNat_int]
  · rw [s.getV_flag, noBorrowFlag_toNat]

/-- Settles O31: a shift by one is a half or a double, and the bit shifted out is the remainder or the quotient. -/
theorem shiftsByOneSetTheBitOut : Obligations.ShiftsByOneSetTheBitOut := by
  refine fun x y s => ⟨⟨_, exec_shr x y s, fun hx => ?_, ?_, s.setResultFlag_advance_frame x _ _⟩,
    ⟨_, exec_shl x y s, fun hx => ?_, ?_, s.setResultFlag_advance_frame x _ _⟩⟩
  · rw [s.getV_result _ _ hx, BitVec.toNat_ushiftRight, Nat.shiftRight_eq_div_pow, Nat.pow_one]
  · rw [s.getV_flag, lowBitFlag_toNat]
  · rw [s.getV_result _ _ hx, BitVec.toNat_shiftLeft, Nat.shiftLeft_eq, Nat.pow_one]
  · rw [s.getV_flag, highBitFlag_toNat]

end Sys2Proof.Machine
end

section
/-! The index register and the transfers between registers and memory (R122 to R126). -/

namespace Sys2Proof.Machine

open Sys2Proof.Claim

/-! ### The index register. -/

theorem zext16_toNat (b : Byte) : (zext16 b).toNat = b.toNat :=
  BitVec.toNat_setWidth_of_le (by decide)

/-- Settles O34: one write to I, of a sum of 16 bits. -/
theorem addIndexWrapsAt16Bits : Obligations.AddIndexWrapsAt16Bits := by
  refine fun x s => ⟨_, exec_addI x s, ?_, s.setI_advance_frame _⟩
  rw [State.i_setI_advance, BitVec.toNat_add, zext16_toNat]

theorem glyphAddr_toNat (b : Byte) : (glyphAddr b).toNat = 5 * (b.toNat % 16) := by
  have hnibble : (b &&& 0x0F#8).toNat = b.toNat % 16 := Nat.and_two_pow_sub_one_eq_mod b.toNat 4
  rw [glyphAddr, hnibble, Config.fontBase, BitVec.toNat_ofNat]
  omega

/-- Settles O35: one write to I, of the glyph's address. -/
theorem loadGlyphAddress : Obligations.LoadGlyphAddress := by
  refine fun x s => ⟨_, exec_ldF x s, ?_, s.setI_advance_frame _⟩
  rw [State.i_setI_advance, glyphAddr_toNat]

/-! ### Stores. -/

/-- A byte stored, in the state after a store. -/
theorem byteAt_setMem_writeAll (s : State) (a : Nat) (bs : List Byte) (k : Nat) (hk : k < bs.length) :
    (s.setMem (Memory.writeAll s.font s.mem a bs)).advance.byteAt (a + k) = bs[k] := by
  simp [Memory.read_writeAll, hk]

/-- A byte outside a store. -/
theorem byteAt_setMem_writeAll_other (s : State) {a b : Nat} {bs : List Byte} (hb : b < a ∨ a + bs.length ≤ b) :
    (s.setMem (Memory.writeAll s.font s.mem a bs)).advance.byteAt b = s.byteAt b := by
  have hout : ¬ (a ≤ b ∧ b - a < bs.length) := by omega
  simp only [State.byteAt_def, State.advance_font, State.advance_mem, State.setMem_font, State.setMem_mem,
    Memory.read_writeAll, dif_neg hout]

@[simp] theorem bcdDigits_length (b : Byte) : (bcdDigits b).length = 3 := rfl

/-- Settles O36: the digits are stored as they stand in the list, each below 256. -/
theorem bcdStoresThreeDigits : Obligations.BcdStoresThreeDigits := by
  intro x s hlow hhigh
  have hbyte := byteAt_setMem_writeAll s s.indexAddr (bcdDigits (s.getV x))
  rw [exec_ldB, writeBytes_ok _ _ _ _ hlow (by rw [bcdDigits_length]; omega)]
  refine ⟨_, rfl, ?_, ?_, ?_, fun a ha => byteAt_setMem_writeAll_other s ha, rfl, rfl⟩
  · exact (congrArg BitVec.toNat (hbyte 0 (by simp))).trans (Nat.mod_eq_of_lt (by omega))
  · exact (congrArg BitVec.toNat (hbyte 1 (by simp))).trans (Nat.mod_eq_of_lt (by omega))
  · exact (congrArg BitVec.toNat (hbyte 2 (by simp))).trans (Nat.mod_eq_of_lt (by omega))

/-- Settles O37: the registers are stored as they stand in V. -/
theorem storeRegsStoresV0ToVx : Obligations.StoreRegsStoresV0ToVx := by
  intro x s hlow hhigh
  have hlen : (s.firstV x).length = x.val + 1 := s.firstV_length x
  rw [exec_storeRegs, writeBytes_ok _ _ _ _ hlow (by omega)]
  refine ⟨_, rfl, fun k hk => ?_, fun a ha => byteAt_setMem_writeAll_other s (by omega), rfl, rfl⟩
  have hkx : k.val ≤ x.val := hk
  rw [byteAt_setMem_writeAll s _ _ k.val (by omega), State.firstV_getElem]; rfl

/-- Settles O38: the first refused address is raised, and the fault discards what was stored. -/
theorem storesOutsideProgramAreaFault : Obligations.StoresOutsideProgramAreaFault := by
  refine fun x s => ⟨fun h => ?_, fun h => ?_⟩
  · rw [exec_ldB, writeBytes_error _ _ _ _ (by simp [bcdDigits])
      (by rw [bcdDigits_length]; omega)]; rfl
  · have hlen : (s.firstV x).length = x.val + 1 := s.firstV_length x
    rw [exec_storeRegs, writeBytes_error _ _ _ _ (List.ne_nil_of_length_eq_add_one hlen) (by omega)]; rfl

/-! ### Loads. -/

/-- Settles O39: the bytes are read in order, and register k takes the k-th of them. -/
theorem loadRegsLoadsV0ToVx : Obligations.LoadRegsLoadsV0ToVx := by
  intro x s h
  rw [exec_loadRegs, readBytes_ok _ _ _ _ (.inr (by omega))]
  refine ⟨_, rfl, fun k hk => ?_, fun k hk => ?_, rfl, rfl⟩
  · have hkx : k.val ≤ x.val := hk
    rw [State.getV_advance, State.getV, loadV_getElem, dif_pos (by simp; omega)]
    simp
  · have hkx : x.val < k.val := hk
    rw [State.getV_advance, State.getV, loadV_getElem, dif_neg (by simp; omega)]; rfl

/-- Settles O40: the first address that is not in memory is raised, before any register is written. -/
theorem loadRegsBeyondMemoryFaults : Obligations.LoadRegsBeyondMemoryFaults := by
  intro x s h
  rw [exec_loadRegs, readBytes_error _ _ _ _ (by omega) (by omega)]; rfl

end Sys2Proof.Machine
end

section
/-! The display, the sound timer and the key wait (R127 to R129, R131, R133). -/

namespace Sys2Proof.Machine

open Sys2Proof.Claim

/-! ### CLS. -/

/-- Settles O41: one word of the table, which assigns the blank display. -/
theorem clsClearsEveryPixel : Obligations.ClsClearsEveryPixel := by
  refine ⟨fun op => ⟨fun h => h ▸ rfl, fun h => (encode_of_decode h).symm⟩,
    fun s => ⟨_, exec_cls s, Display.pixel_blank, rfl, rfl, fun hs hfetch => ?_⟩⟩
  rw [stepResult_fetched _ hs hfetch]
  refine disp_ne_iff_pixel.trans ?_
  simp

/-! ### DRW. -/

/-- The rows of a sprite as they are read: n bytes from the address in I on (R128). -/
def State.spriteRows (s : State) (n : BitVec 4) : List Byte :=
  (List.range n.toNat).map fun k => Memory.read s.font s.mem (s.indexAddr + k)

@[simp] theorem State.spriteRows_length (s : State) (n : BitVec 4) : (s.spriteRows n).length = n.toNat := by
  simp [State.spriteRows]

theorem State.spriteRows_getD (s : State) {n : BitVec 4} {r : Nat} (hr : r < n.toNat) :
    (s.spriteRows n).getD r 0 = Memory.read s.font s.mem (s.indexAddr + r) := by
  simp [State.spriteRows, hr]

/-- The bit the rows hold for a pixel is the sprite's bit there (R128). -/
theorem rowsBit_spriteRows (s : State) (x y : Reg) (n : BitVec 4) (px : Fin 64) (py : Fin 32) :
    rowsBit (s.getV x).toNat (s.getV y).toNat 0 (s.spriteRows n) px py = drwBit s x y n px py := by
  unfold rowsBit drwBit spriteBit rowBit
  rw [Nat.sub_zero, State.spriteRows_length]
  generalize (py.val + 32 - (s.getV y).toNat % 32) % 32 = r
  by_cases hr : r < n.toNat
  · rw [s.spriteRows_getD hr]
    simp [hr]
  · simp [hr]

theorem exec_drw_ok {s : State} {n : BitVec 4} (x y : Reg) (h : n = 0 ∨ s.indexAddr + n.toNat ≤ 0x1000) :
    exec (.drw x y n) s = .next (s.draw x y (s.spriteRows n)) := by
  have hrows : n.toNat = 0 ∨ s.indexAddr + n.toNat ≤ 0x1000 := h.imp_left fun h0 => by rw [h0]; rfl
  rw [exec_drw, readBytes_ok _ _ _ _ hrows]; rfl

/-- The pixels after a draw. -/
theorem State.draw_pixel (s : State) (x y : Reg) (n : BitVec 4) (px : Fin 64) (py : Fin 32) :
    Display.pixel (s.draw x y (s.spriteRows n)).disp px py = (Display.pixel s.disp px py != drwBit s x y n px py) := by
  rw [← rowsBit_spriteRows]
  exact (drawSprite_spec s.disp _ _ _ (by rw [State.spriteRows_length]; omega)).1 px py

/-- VF after a draw is whether a set sprite bit lay on a set pixel. -/
theorem State.draw_collision (s : State) (x y : Reg) (n : BitVec 4) :
    ∃ c : Bool, (s.draw x y (s.spriteRows n)).getV regF = flagByte c ∧
      (c = true ↔ ∃ px py, drwBit s x y n px py = true ∧ Display.pixel s.disp px py = true) := by
  refine ⟨_, State.getV_setV_advance_same _ regF _, ?_⟩
  simp only [← rowsBit_spriteRows]
  exact (drawSprite_spec s.disp _ _ _ (by rw [State.spriteRows_length]; omega)).2

/-- Settles O42: the rows that are read hold the sprite's bits, and the draw is what drawing a sprite does. -/
theorem drawXorsTheSpriteAndSetsCollision : Obligations.DrawXorsTheSpriteAndSetsCollision := by
  intro x y n s h
  obtain ⟨c, hvf, hc⟩ := s.draw_collision x y n
  refine ⟨_, exec_drw_ok x y h, s.draw_pixel x y n, fun hhit => ?_, fun hmiss => ?_,
    ((s.setDisp _).setV_advance_frame regF _).1, rfl, rfl⟩
  · rw [hvf, hc.mpr hhit]; rfl
  · rw [hvf, flagByte_eq_zero, ← Bool.not_eq_true, hc]
    rintro ⟨px, py, hbit, hset⟩
    rw [hmiss px py hbit] at hset
    cases hset

/-- Settles O43: the rows are read first, and the first address that is not in memory is raised. -/
theorem drawBeyondMemoryFaults : Obligations.DrawBeyondMemoryFaults := by
  intro x y n s hn h
  have hn0 : n.toNat ≠ 0 := fun h0 => hn (BitVec.eq_of_toNat_eq h0)
  rw [exec_drw, readBytes_error _ _ _ _ hn0 h]; rfl

/-- A draw leaves memory and I, so that with the coordinates kept the sprite's bits are the same. -/
theorem drwBit_draw {s : State} {x y : Reg} (n : BitVec 4) {rows : List Byte}
    (hx : (s.draw x y rows).getV x = s.getV x) (hy : (s.draw x y rows).getV y = s.getV y) (px : Fin 64) (py : Fin 32) :
    drwBit (s.draw x y rows) x y n px py = drwBit s x y n px py := by
  rw [drwBit, hx, hy]; rfl

/-- Settles O44: the second draw inverts the same pixels again, and collides where the first one set a pixel. -/
theorem drawingTwiceRestoresTheDisplay : Obligations.DrawingTwiceRestoresTheDisplay := by
  intro x y n s h
  refine ⟨_, exec_drw_ok x y h, fun hx hy => ⟨_, exec_drw_ok (s := s.draw x y (s.spriteRows n)) x y h, ?_⟩⟩
  have hbit := drwBit_draw n hx hy
  obtain ⟨c, hvf, hc⟩ := (s.draw x y (s.spriteRows n)).draw_collision x y n
  refine ⟨Display.ext_pixel fun px py => ?_, ?_, ?_⟩
  · rw [State.draw_pixel, hbit, State.draw_pixel]
    simp
  · rw [hvf, flagByte_eq_one, hc]
    refine exists_congr fun px => exists_congr fun py => ?_
    rw [hbit, State.draw_pixel]
    refine and_congr_right fun hset => ?_
    simp [hset]
  · rw [hvf]
    cases c with
    | false => exact .inl rfl
    | true => exact .inr rfl

/-! ### The sound timer and the key wait. -/

/-- Settles O46: one write to ST, which is what sound_active reads. -/
theorem soundTimerIsWritten : Obligations.SoundTimerIsWritten :=
  fun x s => ⟨_, exec_ldSTVx x s, rfl, by rw [soundActive, bne_iff_ne]; rfl⟩

/-- A pressed key with none pressed below it is the lowest (R131). -/
theorem lowestKey_eq_some {s : State} {k : Reg} (hk : s.key[k.val] = true) (hbelow : ∀ j : Reg, j < k → s.key[j.val] = false) :
    s.lowestKey = some k := by
  rw [State.lowestKey, List.find?_eq_some_iff_getElem]
  refine ⟨hk, k.val, by simp, by simp, fun j hj => ?_⟩
  rw [List.getElem_finRange]
  simpa using hbelow ⟨j, by omega⟩ hj

/-- Settles O47: the key taken is the lowest, and where there is none the state and the status are those of the wait. -/
theorem keyWaitTakesTheLowestKeyOrWaits : Obligations.KeyWaitTakesTheLowestKeyOrWaits := by
  refine fun x s => ⟨fun hnone => ?_, fun k hk hbelow => ?_⟩
  · refine ⟨exec_ldVxK_wait x s (lowestKey_eq_none.mpr hnone), fun hs hfetch => ?_⟩
    rw [stepResult_status hs hs hfetch]
    exact (completedStatus_code _ s).1 ⟨⟨x, rfl⟩, hnone⟩
  · obtain ⟨hkeeps, hpc, honly⟩ := s.setV_advance_frame x (BitVec.ofNat 8 k.val)
    refine ⟨_, exec_ldVxK_take x s (lowestKey_eq_some hk hbelow), ?_, hkeeps, hpc, honly, fun hs hfetch => ?_⟩
    · rw [State.getV_setV_advance_same, BitVec.toNat_ofNat, Nat.mod_eq_of_lt (by omega)]
    · rw [stepResult_status (t := (s.setV x (BitVec.ofNat 8 k.val)).advance) hs hs hfetch]
      refine (completedStatus_code _ s).2 fun hwaits => ?_
      rw [hwaits.2 k] at hk
      cases hk

end Sys2Proof.Machine
end
